-- ==== Sys2Proof/Word.lean ====
section
/-! DEFINITION. Bytes and byte strings (00_scope.md R12 to R14): the one data type of the engine's interface. -/

namespace Sys2Proof

/-- A byte, an unsigned integer in 0..255 (R12, R13). -/
abbrev Byte := BitVec 8

/-- A byte string of length `n`; index 0 is the first byte (R12, R52). -/
abbrev Bytes (n : Nat) := Vector Byte n

/-- A schedule word: a byte string of length 4, never an integer (R53). -/
abbrev Word := Bytes 4

/-- One 16-byte half of the cipher's state (R123). -/
abbrev Lane := Bytes 16

/-- A 32-byte block. -/
abbrev Block := Bytes 32

/-- `0^n` (R12). -/
def zeros (n : Nat) : Bytes n := Vector.ofFn fun _ => 0

/-- `X xor Y` on byte strings of equal length (R14). Irreducible for the elaborator: proofs go through its bytes. -/
@[irreducible] def xorBytes {n : Nat} (x y : Bytes n) : Bytes n := Vector.ofFn fun i => x[i] ^^^ y[i]

end Sys2Proof
end

