-- ==== Sys2Proof/Config.lean ====
section
/-! DEFINITION. What an implementation fixes and what the spec leaves open: `WIDTH_ADJ` (00_scope.md R9), the AES-256 collaborator
as a record (R10), and the one value the spec leaves unspecified (43_suite.md R167). The opaque constants have no value here:
nothing can be proved of them that is not true whatever they are. -/

namespace Sys2Proof

/-- One less than `WIDTH_ADJ`. -/
opaque Config.widthAdjPred : Nat

/-- `WIDTH_ADJ`, a positive integer, a constant of the engine that the spec leaves OPEN (R9, 92 D13; log entry 2). -/
def Config.widthAdj : Nat := Config.widthAdjPred + 1

/-- What a suite command would return with widths outside `CFG_OK`, from the bytes of everything it reads: not specified
(R167), and reached by no run. A free value (log entry 4). -/
opaque Config.unspecifiedOutput : List Byte → List Byte

/-- The AES-256 collaborator (R10, 40_aes_primitive.md R100, R101): total pure functions on one 16-byte lane, and the
round-key words of a key on demand. -/
structure Aes where
  subBytes : Lane → Lane
  shiftRows : Lane → Lane
  mixColumns : Lane → Lane
  addRoundKey : Lane → Lane → Lane
  keyWord : Bytes 32 → Nat → Word

/-- The parameters of the machine: the two things the spec lets a model take as arguments (00_scope.md R9, R10, 92 D13, D27), and
nothing else is parameterised (R11). -/
structure Params where
  /-- `AES` (R10). -/
  aes : Aes
  /-- `WIDTH_ADJ` (R9). With the value 0, which R9 excludes, `F1_HI` is out of range. -/
  widthAdj : Nat

end Sys2Proof
end

