-- ==== Sys2Proof/Syntax.lean ====
section
/-! DEFINITION. The command set as data: one constructor of `Instr` for each row of spec/opcode_table.json, and the names of
the registers. -/

namespace Sys2Proof

/-- The thirteen mnemonics of 30_encoding.md R74, in the order of the opcode table. -/
inductive Mnemonic where
  | f1s | f1 | f2 | f3 | f4 | f5 | f5s | f5ss
  | ctxinit | wrctx | rdctx | deriveopc | encrypt
  deriving DecidableEq, Repr

/-- A decoded command: its mnemonic and the operand fields of 30_encoding.md R71. Each field is a byte string of the field's
size, so every term is a command of a well-formed descriptor. -/
inductive Instr where
  /-- Format A, R168. -/
  | f1s (key : Bytes 32) (rand : Bytes 16) (amf : Bytes 2) (sqn : Bytes 12)
  /-- Format A, R169. -/
  | f1 (key : Bytes 32) (rand : Bytes 16) (amf : Bytes 2) (sqn : Bytes 12)
  /-- Format P, R170. -/
  | f2 (key : Bytes 32) (rand : Bytes 16)
  /-- Format P, R171. -/
  | f3 (key : Bytes 32) (rand : Bytes 16)
  /-- Format P, R172. -/
  | f4 (key : Bytes 32) (rand : Bytes 16)
  /-- Format P, R173. -/
  | f5 (key : Bytes 32) (rand : Bytes 16)
  /-- Format P, R174. -/
  | f5s (key : Bytes 32) (rand : Bytes 16)
  /-- Format M, R175. -/
  | f5ss (key : Bytes 32) (rand : Bytes 16) (macs : Bytes 32)
  /-- Format Z, R141. -/
  | ctxinit
  /-- Format W, R142. -/
  | wrctx (reg : Byte) (data : Bytes 32)
  /-- Format R, R143. -/
  | rdctx (reg : Byte)
  /-- Format K, R144. -/
  | deriveopc (key : Bytes 32)
  /-- Format E, R127. -/
  | encrypt (key : Bytes 32) (block : Bytes 32)
  deriving DecidableEq, Repr

/-- The mnemonic of a command. -/
def Instr.mnemonic : Instr → Mnemonic
  | .f1s _ _ _ _ => .f1s
  | .f1 _ _ _ _ => .f1
  | .f2 _ _ => .f2
  | .f3 _ _ => .f3
  | .f4 _ _ => .f4
  | .f5 _ _ => .f5
  | .f5s _ _ => .f5s
  | .f5ss _ _ _ => .f5ss
  | .ctxinit => .ctxinit
  | .wrctx _ _ => .wrctx
  | .rdctx _ => .rdctx
  | .deriveopc _ => .deriveopc
  | .encrypt _ _ => .encrypt

/-- The eight width registers, in the order of their numbers (10_state.md R24 to R31, R43). -/
inductive WidthReg where
  | keyW | resW | ckW | ikW | macW | nonceW | sqnW | akW
  deriving DecidableEq, Repr

/-- The registers of the register map (10_state.md R43). -/
inductive Reg where
  | op
  | opc
  | constant (i : Fin 8)
  | width (w : WidthReg)
  | lifecycle
  | fault
  deriving DecidableEq, Repr

/-- The operands of a suite command: the key and the nonce, and each auxiliary input present or absent (43_suite.md R160). -/
structure SuiteOperands where
  key : Bytes 32
  rand : Bytes 16
  amf : Option (Bytes 2)
  sqn : Option (Bytes 12)
  macs : Option (Bytes 32)
  deriving DecidableEq, Repr

end Sys2Proof
end

