-- ==== Sys2Proof/WellFormed.lean ====
section
/-! DEFINITION. When a byte string is the descriptor of a command: the formats of 30_encoding.md R71 and the opcode map of R74, as
tables. They are written apart from the decoder (Decode.lean, R78), so that the agreement of the two says something. -/

namespace Sys2Proof

/-- The eight formats (R71). -/
inductive Format where
  | z | r | w | k | e | p | a | m
  deriving DecidableEq, Repr

/-- The length of a descriptor of the format: the end of its last field in the table of R71. -/
def Format.length : Format → Nat
  | .z => 1
  | .r => 2
  | .w => 34
  | .k => 33
  | .e => 65
  | .p => 49
  | .a => 63
  | .m => 81

/-- One row of the opcode map (R74). -/
structure OpcodeRow where
  opcode : Byte
  mnemonic : Mnemonic
  format : Format
  deriving DecidableEq, Repr

/-- The thirteen assigned opcodes (R74). Every other value of `D[0]` is reserved (R77). -/
def opcodeMap : List OpcodeRow :=
  [⟨0x00, .f1s, .a⟩, ⟨0x01, .f1, .a⟩, ⟨0x02, .f2, .p⟩, ⟨0x03, .f3, .p⟩, ⟨0x04, .f4, .p⟩,
   ⟨0x05, .f5, .p⟩, ⟨0x06, .f5s, .p⟩, ⟨0x07, .f5ss, .m⟩,
   ⟨0x10, .ctxinit, .z⟩, ⟨0x11, .wrctx, .w⟩, ⟨0x12, .rdctx, .r⟩, ⟨0x13, .deriveopc, .k⟩,
   ⟨0x20, .encrypt, .e⟩]

/-- The row of an opcode, if it is assigned. -/
def opcodeRow (op : Byte) : Option OpcodeRow := opcodeMap.find? fun row => row.opcode == op

/-- A byte string is a well-formed descriptor when it is not empty, its first byte is an assigned opcode, and its length is
exactly that of the opcode's format (R70, R71, R77). -/
def descriptorWellFormed (d : List Byte) : Bool :=
  match d with
  | [] => false
  | op :: _ =>
    match opcodeRow op with
    | none => false
    | some row => d.length == row.format.length

end Sys2Proof
end

