-- ==== Sys2Proof/Decode.lean ====
section
/-! DEFINITION. The decoder of 30_encoding.md R78, total on every byte string, and after it the encoder, written from the same
table of formats (R71). -/

namespace Sys2Proof

/-- The two decode faults (60_exceptions.md R191, R192), by name. -/
inductive DecodeError where
  /-- The descriptor is empty, or its length is not its opcode's. -/
  | errLength
  /-- The first byte is a reserved opcode. -/
  | errOpcode
  deriving DecidableEq, Repr

/-- `mnemonic(D[0])` of R78: none for a reserved opcode. -/
def mnemonicOf (op : Byte) : Option Mnemonic :=
  match op.toNat with
  | 0x00 => some .f1s
  | 0x01 => some .f1
  | 0x02 => some .f2
  | 0x03 => some .f3
  | 0x04 => some .f4
  | 0x05 => some .f5
  | 0x06 => some .f5s
  | 0x07 => some .f5ss
  | 0x10 => some .ctxinit
  | 0x11 => some .wrctx
  | 0x12 => some .rdctx
  | 0x13 => some .deriveopc
  | 0x20 => some .encrypt
  | _ => none

/-- `LEN` of R78. -/
def requiredLength : Mnemonic → Nat
  | .f1s => 63
  | .f1 => 63
  | .f2 => 49
  | .f3 => 49
  | .f4 => 49
  | .f5 => 49
  | .f5s => 49
  | .f5ss => 81
  | .ctxinit => 1
  | .wrctx => 34
  | .rdctx => 2
  | .deriveopc => 33
  | .encrypt => 65

/-- The field of `n` bytes of `d` that starts at byte `start`: `d[start..start+n-1]` (R12, R71). -/
def field (n start : Nat) (d : List Byte) : Bytes n := Vector.ofFn fun i => d.getD (start + i.val) 0

/-- `l` extended on the right with zero bytes to the length `n`; what lies beyond `n` is dropped. -/
def padRight (n : Nat) (l : List Byte) : Bytes n := field n 0 l

/-- The fields of a command cut at the offsets of R71. -/
def cutFields (m : Mnemonic) (d : List Byte) : Instr :=
  match m with
  | .f1s => .f1s (field 32 1 d) (field 16 33 d) (field 2 49 d) (field 12 51 d)
  | .f1 => .f1 (field 32 1 d) (field 16 33 d) (field 2 49 d) (field 12 51 d)
  | .f2 => .f2 (field 32 1 d) (field 16 33 d)
  | .f3 => .f3 (field 32 1 d) (field 16 33 d)
  | .f4 => .f4 (field 32 1 d) (field 16 33 d)
  | .f5 => .f5 (field 32 1 d) (field 16 33 d)
  | .f5s => .f5s (field 32 1 d) (field 16 33 d)
  | .f5ss => .f5ss (field 32 1 d) (field 16 33 d) (field 32 49 d)
  | .ctxinit => .ctxinit
  | .wrctx => .wrctx (d.getD 1 0) (field 32 2 d)
  | .rdctx => .rdctx (d.getD 1 0)
  | .deriveopc => .deriveopc (field 32 1 d)
  | .encrypt => .encrypt (field 32 1 d) (field 32 33 d)

/-- The decoding procedure of R78: empty, then reserved opcode, then length, then the fields. -/
def decode (d : List Byte) : Except DecodeError Instr :=
  match d with
  | [] => .error .errLength
  | op :: _ =>
    match mnemonicOf op with
    | none => .error .errOpcode
    | some m => if d.length = requiredLength m then .ok (cutFields m d) else .error .errLength

/-- The descriptor of a command: opcode (R74) and fields in the order of R71. -/
def encode : Instr → List Byte
  | .f1s key rand amf sqn => 0x00 :: (key.toList ++ (rand.toList ++ (amf.toList ++ sqn.toList)))
  | .f1 key rand amf sqn => 0x01 :: (key.toList ++ (rand.toList ++ (amf.toList ++ sqn.toList)))
  | .f2 key rand => 0x02 :: (key.toList ++ rand.toList)
  | .f3 key rand => 0x03 :: (key.toList ++ rand.toList)
  | .f4 key rand => 0x04 :: (key.toList ++ rand.toList)
  | .f5 key rand => 0x05 :: (key.toList ++ rand.toList)
  | .f5s key rand => 0x06 :: (key.toList ++ rand.toList)
  | .f5ss key rand macs => 0x07 :: (key.toList ++ (rand.toList ++ macs.toList))
  | .ctxinit => [0x10]
  | .wrctx reg data => 0x11 :: reg :: data.toList
  | .rdctx reg => [0x12, reg]
  | .deriveopc key => 0x13 :: key.toList
  | .encrypt key block => 0x20 :: (key.toList ++ block.toList)

/-- The descriptor whose bits are `w`, byte `k` being bits `8k+7..8k`: the first `nbits` bits of `w`, and zero bytes up to the
length the opcode requires. -/
def descriptorOfBits (nbits w : Nat) : List Byte :=
  let v := w % 2 ^ nbits
  let len :=
    match mnemonicOf (BitVec.ofNat 8 v) with
    | some m => max (nbits / 8) (requiredLength m)
    | none => nbits / 8
  (List.range len).map fun k => BitVec.ofNat 8 (v >>> (8 * k))

/-- The command the decoder reads from the descriptor whose bits are `w`. -/
def decodeTableWord (nbits w : Nat) : Option Instr :=
  match decode (descriptorOfBits nbits w) with
  | .ok i => some i
  | .error _ => none

end Sys2Proof
end

