-- ==== Sys2Proof/Machine/Aes.lean ====
section
/-! DEFINITION. The AES-256 primitive: the FIPS-197 definitions of 40_aes_primitive.md section 2, and the collaborator they make
(00_scope.md R10). -/

namespace Sys2Proof.Machine

/-! ## Arithmetic in GF(2^8) (R111) -/

/-- `xtime(a)`: multiplication by 02. -/
def xtime (a : Byte) : Byte := (a <<< 1) ^^^ (if a.getLsbD 7 then 0x1B else 0x00)

/-- `xtime` applied `n` times. -/
def xtimes : Nat → Byte → Byte
  | 0, a => a
  | n + 1, a => xtime (xtimes n a)

/-- `mul(a, 0x03)`. -/
def mul03 (a : Byte) : Byte := xtime a ^^^ a

/-- `mul(a, b)`: the xor over the set bits `i` of `b` of `xtime` applied `i` times to `a`. -/
def gfMul (a b : Byte) : Byte :=
  (List.range 8).foldl (fun acc i => if b.getLsbD i then acc ^^^ xtimes i a else acc) 0

/-- `inv(a)`: the `b` with `mul(a, b) = 1`, and 0 for 0. -/
def gfInv (a : Byte) : Byte :=
  ((List.range 256).map (BitVec.ofNat 8)).find? (fun b => gfMul a b == 1) |>.getD 0

/-! ## The round operations (R102 to R107) -/

/-- The S-box table of R102: row = high nibble, column = low nibble. -/
def sboxTable : List (List Byte) := [
  [0x63, 0x7c, 0x77, 0x7b, 0xf2, 0x6b, 0x6f, 0xc5, 0x30, 0x01, 0x67, 0x2b, 0xfe, 0xd7, 0xab, 0x76],
  [0xca, 0x82, 0xc9, 0x7d, 0xfa, 0x59, 0x47, 0xf0, 0xad, 0xd4, 0xa2, 0xaf, 0x9c, 0xa4, 0x72, 0xc0],
  [0xb7, 0xfd, 0x93, 0x26, 0x36, 0x3f, 0xf7, 0xcc, 0x34, 0xa5, 0xe5, 0xf1, 0x71, 0xd8, 0x31, 0x15],
  [0x04, 0xc7, 0x23, 0xc3, 0x18, 0x96, 0x05, 0x9a, 0x07, 0x12, 0x80, 0xe2, 0xeb, 0x27, 0xb2, 0x75],
  [0x09, 0x83, 0x2c, 0x1a, 0x1b, 0x6e, 0x5a, 0xa0, 0x52, 0x3b, 0xd6, 0xb3, 0x29, 0xe3, 0x2f, 0x84],
  [0x53, 0xd1, 0x00, 0xed, 0x20, 0xfc, 0xb1, 0x5b, 0x6a, 0xcb, 0xbe, 0x39, 0x4a, 0x4c, 0x58, 0xcf],
  [0xd0, 0xef, 0xaa, 0xfb, 0x43, 0x4d, 0x33, 0x85, 0x45, 0xf9, 0x02, 0x7f, 0x50, 0x3c, 0x9f, 0xa8],
  [0x51, 0xa3, 0x40, 0x8f, 0x92, 0x9d, 0x38, 0xf5, 0xbc, 0xb6, 0xda, 0x21, 0x10, 0xff, 0xf3, 0xd2],
  [0xcd, 0x0c, 0x13, 0xec, 0x5f, 0x97, 0x44, 0x17, 0xc4, 0xa7, 0x7e, 0x3d, 0x64, 0x5d, 0x19, 0x73],
  [0x60, 0x81, 0x4f, 0xdc, 0x22, 0x2a, 0x90, 0x88, 0x46, 0xee, 0xb8, 0x14, 0xde, 0x5e, 0x0b, 0xdb],
  [0xe0, 0x32, 0x3a, 0x0a, 0x49, 0x06, 0x24, 0x5c, 0xc2, 0xd3, 0xac, 0x62, 0x91, 0x95, 0xe4, 0x79],
  [0xe7, 0xc8, 0x37, 0x6d, 0x8d, 0xd5, 0x4e, 0xa9, 0x6c, 0x56, 0xf4, 0xea, 0x65, 0x7a, 0xae, 0x08],
  [0xba, 0x78, 0x25, 0x2e, 0x1c, 0xa6, 0xb4, 0xc6, 0xe8, 0xdd, 0x74, 0x1f, 0x4b, 0xbd, 0x8b, 0x8a],
  [0x70, 0x3e, 0xb5, 0x66, 0x48, 0x03, 0xf6, 0x0e, 0x61, 0x35, 0x57, 0xb9, 0x86, 0xc1, 0x1d, 0x9e],
  [0xe1, 0xf8, 0x98, 0x11, 0x69, 0xd9, 0x8e, 0x94, 0x9b, 0x1e, 0x87, 0xe9, 0xce, 0x55, 0x28, 0xdf],
  [0x8c, 0xa1, 0x89, 0x0d, 0xbf, 0xe6, 0x42, 0x68, 0x41, 0x99, 0x2d, 0x0f, 0xb0, 0x54, 0xbb, 0x16]]

/-- The S-box (R102), read from the table. -/
def sbox (a : Byte) : Byte := (sboxTable.getD (a.toNat / 16) []).getD (a.toNat % 16) 0

/-- The algebraic definition of the S-box (R102). -/
def sboxAlgebraic (a : Byte) : Byte :=
  let b := gfInv a
  b ^^^ b.rotateLeft 1 ^^^ b.rotateLeft 2 ^^^ b.rotateLeft 3 ^^^ b.rotateLeft 4 ^^^ 0x63

/-- `SubBytes` (R102). -/
def subBytes (s : Lane) : Lane := Vector.ofFn fun i => sbox s[i]

/-- `ShiftRows` (R103): the byte of row `r`, column `c` is byte `r + 4c` (R110), and comes from column `(c + r) mod 4`. -/
def shiftRows (s : Lane) : Lane :=
  Vector.ofFn fun i =>
    let r := i.val % 4
    let c := i.val / 4
    s.toList.getD (r + 4 * ((c + r) % 4)) 0

/-- One byte of a mixed column (R104): row `r` of the column `a0, a1, a2, a3`. -/
def mixByte (r : Nat) (a0 a1 a2 a3 : Byte) : Byte :=
  match r with
  | 0 => xtime a0 ^^^ mul03 a1 ^^^ a2 ^^^ a3
  | 1 => a0 ^^^ xtime a1 ^^^ mul03 a2 ^^^ a3
  | 2 => a0 ^^^ a1 ^^^ xtime a2 ^^^ mul03 a3
  | _ => mul03 a0 ^^^ a1 ^^^ a2 ^^^ xtime a3

/-- `MixColumns` (R104): each column `s[4c..4c+3]` by itself. -/
def mixColumns (s : Lane) : Lane :=
  Vector.ofFn fun i =>
    let c := 4 * (i.val / 4)
    mixByte (i.val % 4) (s.toList.getD c 0) (s.toList.getD (c + 1) 0) (s.toList.getD (c + 2) 0) (s.toList.getD (c + 3) 0)

/-- `AddRoundKey` (R105). -/
def addRoundKey (s k : Lane) : Lane := xorBytes s k

/-! ## The key expansion (R108, R109), continued as far as it is asked (41_cipher.md R121) -/

/-- `SubWord` (R109). -/
def subWord (w : Word) : Word := Vector.ofFn fun i => sbox w[i]

/-- `RotWord` (R109): `(w[1], w[2], w[3], w[0])`. -/
def rotWord (w : Word) : Word := Vector.ofFn fun i => w.toList.getD ((i.val + 1) % 4) 0

/-- `Rcon(j)` for `j >= 1` (R108): `x^(j-1)` and three zero bytes. -/
def rcon (j : Nat) : Word := Vector.ofFn fun i => if i.val = 0 then xtimes (j - 1) 1 else 0

/-- `W[i]` for `i >= 8` from `W[i-8]` and `W[i-1]`: the three cases of R109. -/
def nextWord (i : Nat) (back8 back1 : Word) : Word :=
  if i % 8 = 0 then xorBytes (xorBytes back8 (subWord (rotWord back1))) (rcon (i / 8))
  else if i % 8 = 4 then xorBytes back8 (subWord back1)
  else xorBytes back8 back1

/-- `W[i]` for `i < 8`: the key itself (R109). -/
def keyAsWord (key : Bytes 32) (i : Nat) : Word := field 4 (4 * i) key.toList

/-- The words `W[n+7], W[n+6], ..., W[0]` of a key, the last one first. -/
def schedule (key : Bytes 32) : Nat → List Word
  | 0 => (List.range 8).reverse.map (keyAsWord key)
  | n + 1 =>
    let ws := schedule key n
    nextWord (n + 8) (ws.getD 7 (zeros 4)) (ws.getD 0 (zeros 4)) :: ws

/-- `KeyWord(key, i) = W[i]` (R109), for every index (R101, R121). -/
def keyWord (key : Bytes 32) (i : Nat) : Word :=
  if i < 8 then keyAsWord key i else (schedule key (i - 7)).getD 0 (zeros 4)

/-! ## The collaborator -/

/-- The FIPS-197 instance: the default value of the parameter `AES` (00_scope.md R10, 92 D27). -/
def fips197 : Aes where
  subBytes := subBytes
  shiftRows := shiftRows
  mixColumns := mixColumns
  addRoundKey := addRoundKey
  keyWord := keyWord

/-- The parameters at which the host runs the machine: the default instance of `AES` (R10, log entry 3), and the `WIDTH_ADJ` that
the spec leaves open (R9, log entry 2). -/
def engineParams : Params where
  aes := fips197
  widthAdj := Config.widthAdj

/-- `AESRound` (R106). -/
def aesRound (A : Aes) (s k : Lane) : Lane := A.addRoundKey (A.mixColumns (A.shiftRows (A.subBytes s))) k

/-- `AESLastRound` (R107): no column mixing. -/
def aesLastRound (A : Aes) (s k : Lane) : Lane := A.addRoundKey (A.shiftRows (A.subBytes s)) k

end Sys2Proof.Machine
end

