-- ==== Sys2Proof/Machine/Cipher.lean ====
section
/-! DEFINITION. The doubled-block cipher (41_cipher.md R121 to R126), over any collaborator, and the direct reading of it as
Rijndael with eight columns (R128). -/

namespace Sys2Proof.Machine

/-! ## Lanes and round keys -/

/-- Lane A: bytes 0..15 of the state (R123). -/
def laneA (s : Block) : Lane := field 16 0 s.toList

/-- Lane B: bytes 16..31 of the state (R123). -/
def laneB (s : Block) : Lane := field 16 16 s.toList

/-- `A ‖ B`. -/
def joinLanes (a b : Lane) : Block := padRight 32 (a.toList ++ b.toList)

/-- `RKA[r] = W[8r] ‖ W[8r+1] ‖ W[8r+2] ‖ W[8r+3]` (R122). -/
def roundKeyA (A : Aes) (key : Bytes 32) (r : Nat) : Lane :=
  padRight 16 ((A.keyWord key (8 * r)).toList ++ (A.keyWord key (8 * r + 1)).toList
    ++ (A.keyWord key (8 * r + 2)).toList ++ (A.keyWord key (8 * r + 3)).toList)

/-- `RKB[r] = W[8r+4] ‖ W[8r+5] ‖ W[8r+6] ‖ W[8r+7]` (R122). -/
def roundKeyB (A : Aes) (key : Bytes 32) (r : Nat) : Lane :=
  padRight 16 ((A.keyWord key (8 * r + 4)).toList ++ (A.keyWord key (8 * r + 5)).toList
    ++ (A.keyWord key (8 * r + 6)).toList ++ (A.keyWord key (8 * r + 7)).toList)

/-! ## The inter-lane permutation -/

/-- The table `PERM` of R124 (92 D8). -/
def permTable : Vector (Fin 32) 32 :=
  #v[0, 17, 22, 23, 4, 5, 26, 27, 8, 9, 14, 31, 12, 13, 18, 19,
     16, 1, 6, 7, 20, 21, 10, 11, 24, 25, 30, 15, 28, 29, 2, 3]

/-- `Permute(s)[i] = s[PERM[i]]`, the gather form (R125). -/
def permute (s : Block) : Block := Vector.ofFn fun i => s[permTable[i]]

/-! ## Encryption (R126) -/

/-- The whitening: both lanes with round-key pair 0. -/
def whiten (A : Aes) (key : Bytes 32) (s : Block) : Block :=
  joinLanes (A.addRoundKey (laneA s) (roundKeyA A key 0)) (A.addRoundKey (laneB s) (roundKeyB A key 0))

/-- Middle round `r`: permute the whole state, then one `AESRound` in each lane. -/
def middleRound (A : Aes) (key : Bytes 32) (r : Nat) (s : Block) : Block :=
  let p := permute s
  joinLanes (aesRound A (laneA p) (roundKeyA A key r)) (aesRound A (laneB p) (roundKeyB A key r))

/-- Round 14, the last: permute once more, then `AESLastRound` in each lane. -/
def lastRound (A : Aes) (key : Bytes 32) (s : Block) : Block :=
  let p := permute s
  joinLanes (aesLastRound A (laneA p) (roundKeyA A key 14)) (aesLastRound A (laneB p) (roundKeyB A key 14))

/-- The state after the whitening and the first `n` middle rounds. -/
def afterRounds (A : Aes) (key : Bytes 32) (input : Block) : Nat → Block
  | 0 => whiten A key input
  | n + 1 => middleRound A key (n + 1) (afterRounds A key input n)

/-- `encrypt(key, input)` (R126): whitening, 13 middle rounds, the last round. Irreducible for the elaborator, so that no proof
evaluates a cipher by accident; the kernel evaluates it as ever. -/
@[irreducible] def encryptBlock (A : Aes) (key : Bytes 32) (input : Block) : Block :=
  lastRound A key (afterRounds A key input 13)

/-! ## The direct reading: Rijndael with `Nb = 8`, `Nk = 8`, 14 rounds (R128) -/

/-- The row offsets `C = (0, 1, 3, 4)` of Rijndael with eight columns (R124). -/
def rowOffset (r : Nat) : Nat := [0, 1, 3, 4].getD r 0

/-- The 8-column row shift of R128: `t[r + 4c] = s[r + 4((c + C(r)) mod 8)]`. -/
def shiftRows8 (s : Block) : Block :=
  Vector.ofFn fun i =>
    let r := i.val % 4
    let c := i.val / 4
    s.toList.getD (r + 4 * ((c + rowOffset r) % 8)) 0

/-- `SubBytes` on the 4-row, 8-column state. -/
def subBytes8 (s : Block) : Block := Vector.ofFn fun i => sbox s[i]

/-- `MixColumns` on the eight columns. -/
def mixColumns8 (s : Block) : Block :=
  Vector.ofFn fun i =>
    let c := 4 * (i.val / 4)
    mixByte (i.val % 4) (s.toList.getD c 0) (s.toList.getD (c + 1) 0) (s.toList.getD (c + 2) 0) (s.toList.getD (c + 3) 0)

/-- Round key `r` of Rijndael-256-256: the words `W[8r]..W[8r+7]` laid end to end (R122). -/
def roundKey8 (key : Bytes 32) (r : Nat) : Block := Vector.ofFn fun i => (keyWord key (8 * r + i.val / 4)).toList.getD (i.val % 4) 0

/-- The state of Rijndael-256-256 after round `r`; round 0 is the first key addition and the last round mixes no columns. -/
def rijndaelAfter (key : Bytes 32) (input : Block) : Nat → Block
  | 0 => xorBytes input (roundKey8 key 0)
  | r + 1 =>
    let t := shiftRows8 (subBytes8 (rijndaelAfter key input r))
    xorBytes (if r + 1 = 14 then t else mixColumns8 t) (roundKey8 key (r + 1))

/-- Rijndael with a 256-bit block and a 256-bit key, computed directly on eight columns (R128). -/
def rijndael256 (key : Bytes 32) (input : Block) : Block := rijndaelAfter key input 14

end Sys2Proof.Machine
end

