-- ==== Sys2Proof/Machine/State.lean ====
section
/-! DEFINITION. The state of the engine (10_state.md R20 to R32, R41, R42) and the two lists that carry its interface, as plain
data; the status codes and responses; the state after reset (R49). -/

namespace Sys2Proof.Machine

/-- `LIFECYCLE` (10_state.md R41): "no other value ever occurs". -/
inductive Lifecycle where
  /-- Zero-initialized, defaults not applied. -/
  | uninit
  /-- Defaults applied, `OP` and the widths writable. -/
  | setup
  /-- `OPC` derived, the whole context frozen. -/
  | ready
  deriving DecidableEq, Repr

/-- The status codes (60_exceptions.md R190): `STATUS` of a response, and what `FAULT` holds. -/
inductive Status where
  | ok
  | errOpcode
  | errLength
  | errReg
  | errState
  | errConfig
  deriving DecidableEq, Repr

/-- A response (30_encoding.md R76). -/
structure Response where
  status : Status
  len : Byte
  data : Bytes 32
  deriving DecidableEq, Repr

/-- The two things a host can do to the engine (70_reset_and_hazards.md R220). -/
inductive HostEvent where
  /-- Hand over a descriptor, by value (20_memory.md R62). -/
  | command (descriptor : List Byte)
  /-- Reset the engine (70_reset_and_hazards.md R210, R211). -/
  | reset
  deriving DecidableEq, Repr

/-- The state. The first eighteen fields are the registers of 10_state.md R20, all 202 bytes of them; `host` and `responses`
are the model's own (log entry 1). -/
structure State where
  /-- `OP` (R21). -/
  op : Bytes 32
  /-- `OPC` (R22). -/
  opc : Bytes 32
  /-- `C[0]`..`C[7]` (R23). -/
  c : Vector (Bytes 16) 8
  /-- `KEY_W` (R24). -/
  keyW : Byte
  /-- `RES_W` (R25). -/
  resW : Byte
  /-- `CK_W` (R26). -/
  ckW : Byte
  /-- `IK_W` (R27). -/
  ikW : Byte
  /-- `MAC_W` (R28). -/
  macW : Byte
  /-- `NONCE_W` (R29). -/
  nonceW : Byte
  /-- `SQN_W` (R30). -/
  sqnW : Byte
  /-- `AK_W` (R31). -/
  akW : Byte
  /-- `LIFECYCLE` (R41). -/
  lifecycle : Lifecycle
  /-- `FAULT` (R42): `ok` is the value 0. -/
  fault : Status
  /-- What the host has still to do, oldest first (R40, R211, R220). -/
  host : List HostEvent
  /-- The responses delivered so far, oldest first (R218). -/
  responses : List Response
  deriving DecidableEq, Repr

/-- Why the model's machine stops with a fault: never. The engine has a response for every byte string in every state
(93_implementation_defined.md section 1), and its own faults are responses (60_exceptions.md R196), so no constructor is
needed. -/
inductive Fault where
  deriving DecidableEq, Repr

/-- Why the model gives a command no meaning. -/
inductive Refusal where
  /-- Raised by an arm of `exec` whose command has no meaning yet. Safe. No arm raises it: every command has its meaning. -/
  | notModelled (mnemonic : String)
  deriving DecidableEq, Repr

/-- The engine right after reset: the column "value after reset" of 10_state.md R49; no input waiting and no response
delivered. -/
def State.reset : State where
  op := zeros 32
  opc := zeros 32
  c := Vector.ofFn fun _ => zeros 16
  keyW := 0
  resW := 0
  ckW := 0
  ikW := 0
  macW := 0
  nonceW := 0
  sqnW := 0
  akW := 0
  lifecycle := .uninit
  fault := .ok
  host := []
  responses := []

end Sys2Proof.Machine
end

