-- ==== Sys2Proof/Machine/Flags.lean ====
section
/-! DEFINITION. The engine has no flags (10_state.md R45). What its commands test is here: the configuration predicate `CFG_OK`
(R46), the f1/f1s range check (43_suite.md R166), and how a fault is recorded (R42). -/

namespace Sys2Proof.Machine

/-- The code of a status (60_exceptions.md R190). -/
def Status.code : Status → Byte
  | .ok => 0x00
  | .errOpcode => 0x01
  | .errLength => 0x02
  | .errReg => 0x03
  | .errState => 0x04
  | .errConfig => 0x05

/-- The value of `LIFECYCLE` as a register (10_state.md R41). -/
def Lifecycle.code : Lifecycle → Byte
  | .uninit => 0
  | .setup => 1
  | .ready => 2

/-- `CFG_OK` (10_state.md R46). -/
abbrev CfgOk (s : State) : Prop :=
  (1 ≤ s.keyW.toNat ∧ s.keyW.toNat ≤ 32)
  ∧ (1 ≤ s.resW.toNat ∧ s.resW.toNat ≤ 32)
  ∧ (1 ≤ s.ckW.toNat ∧ s.ckW.toNat ≤ 32)
  ∧ (1 ≤ s.ikW.toNat ∧ s.ikW.toNat ≤ 32)
  ∧ (1 ≤ s.macW.toNat ∧ s.macW.toNat ≤ 32)
  ∧ (2 ≤ s.nonceW.toNat ∧ s.nonceW.toNat ≤ 16)
  ∧ (1 ≤ s.sqnW.toNat ∧ s.sqnW.toNat ≤ 12)
  ∧ (5 ≤ s.akW.toNat ∧ s.akW.toNat ≤ 12)

/-- `F1_HI = (NONCE_W div WIDTH_ADJ) − 5` (43_suite.md R166); it may be negative, so it is an integer. -/
def f1Hi (adj : Nat) (s : State) : Int := ((s.nonceW.toNat / adj : Nat) : Int) - 5

/-- The range check of `F1S` and `F1`: `0 <= F1_HI <= 7` (43_suite.md R166). -/
abbrev F1HiOk (adj : Nat) (s : State) : Prop := 0 ≤ f1Hi adj s ∧ f1Hi adj s ≤ 7

/-- What `FAULT` holds after a fault of the given code: the first code stays (10_state.md R42, 60_exceptions.md R196). -/
def recordFault (old new : Status) : Status := if old = .ok then new else old

end Sys2Proof.Machine
end

