-- ==== Sys2Proof/Machine/Operands.lean ====
section
/-! DEFINITION. Operands: register numbers and the registers they name (10_state.md R43), which leading bytes of a field are used
(30_encoding.md R72), the padded key (43_suite.md R161). -/

namespace Sys2Proof.Machine

/-- The register a number names (10_state.md R43); none for an unassigned number. -/
def regOf (number : Byte) : Option Reg :=
  match number.toNat with
  | 0x00 => some .op
  | 0x01 => some .opc
  | 0x08 => some (.constant 0)
  | 0x09 => some (.constant 1)
  | 0x0A => some (.constant 2)
  | 0x0B => some (.constant 3)
  | 0x0C => some (.constant 4)
  | 0x0D => some (.constant 5)
  | 0x0E => some (.constant 6)
  | 0x0F => some (.constant 7)
  | 0x10 => some (.width .keyW)
  | 0x11 => some (.width .resW)
  | 0x12 => some (.width .ckW)
  | 0x13 => some (.width .ikW)
  | 0x14 => some (.width .macW)
  | 0x15 => some (.width .nonceW)
  | 0x16 => some (.width .sqnW)
  | 0x17 => some (.width .akW)
  | 0x20 => some .lifecycle
  | 0x21 => some .fault
  | _ => none

/-- A width register read. -/
def readWidth (s : State) : WidthReg → Byte
  | .keyW => s.keyW
  | .resW => s.resW
  | .ckW => s.ckW
  | .ikW => s.ikW
  | .macW => s.macW
  | .nonceW => s.nonceW
  | .sqnW => s.sqnW
  | .akW => s.akW

/-- A width register written: any byte (10_state.md R32). -/
def writeWidth (s : State) (w : WidthReg) (v : Byte) : State :=
  match w with
  | .keyW => { s with keyW := v }
  | .resW => { s with resW := v }
  | .ckW => { s with ckW := v }
  | .ikW => { s with ikW := v }
  | .macW => { s with macW := v }
  | .nonceW => { s with nonceW := v }
  | .sqnW => { s with sqnW := v }
  | .akW => { s with akW := v }

/-- A register read whole (20_memory.md R55): 32, 16 or 1 bytes. -/
def readReg (s : State) : Reg → List Byte
  | .op => s.op.toList
  | .opc => s.opc.toList
  | .constant i => s.c[i].toList
  | .width w => [readWidth s w]
  | .lifecycle => [s.lifecycle.code]
  | .fault => [s.fault.code]

/-- A host write (10_state.md R43, 20_memory.md R55): `OP` takes all 32 bytes, a width register the first one; none for a
register the host cannot write. -/
def hostWrite (s : State) (data : Bytes 32) : Reg → Option State
  | .op => some { s with op := data }
  | .width w => some (writeWidth s w data[0])
  | .opc => none
  | .constant _ => none
  | .lifecycle => none
  | .fault => none

/-- `PadKey(K) = K[0..KEY_W-1] ‖ 0^(32-KEY_W)` (43_suite.md R161). -/
def padKey (s : State) (key : Bytes 32) : Bytes 32 := padRight 32 (key.toList.take s.keyW.toNat)

/-- The nonce bytes that are used, then zeros up to 32: `RAND'` of 43_suite.md R160. -/
def nonceBlock (s : State) (rand : Bytes 16) : Block := padRight 32 (rand.toList.take s.nonceW.toNat)

/-- The bytes of an operand that may be absent (43_suite.md R160). -/
def optBytes {n : Nat} : Option (Bytes n) → List Byte
  | some b => b.toList
  | none => []

end Sys2Proof.Machine
end

