-- ==== Sys2Proof/Machine/Ops.lean ====
section
/-! DEFINITION. The operations every command is made of: answering (00_scope.md R15), raising a fault (60_exceptions.md R196),
reset (70_reset_and_hazards.md R210), and taking the host's next input. There is no memory (20_memory.md R50) and no return
from a fault (60_exceptions.md R199). -/

namespace Sys2Proof.Machine

/-- The response with the given status and data: `LEN` is the length of the data, `DATA` the data and zeros up to 32 bytes
(00_scope.md R15, 30_encoding.md R76). -/
def mkResponse (status : Status) (data : List Byte) : Response where
  status := status
  len := BitVec.ofNat 8 data.length
  data := padRight 32 data

/-- The 34 bytes of a response (30_encoding.md R76). -/
def responseBytes (r : Response) : List Byte := r.status.code :: r.len :: r.data.toList

/-- `respond(status, data)`: end the command and deliver its one response. -/
def respond (s : State) (status : Status) (data : List Byte) : State :=
  { s with responses := s.responses ++ [mkResponse status data] }

/-- `raise <code>` (60_exceptions.md R196): record the code in `FAULT` if `FAULT` is 0, change nothing else, answer with the
code and no data. -/
def raise (s : State) (code : Status) : State :=
  respond { s with fault := recordFault s.fault code } code []

/-- The reset event (70_reset_and_hazards.md R210): every register takes its reset value and the host gets nothing. What the
host has still to do and what it has received are the host's and stay. -/
def resetEngine (s : State) : State :=
  { State.reset with host := s.host, responses := s.responses }

/-- What the host does next. -/
inductive Input where
  /-- Nothing: the engine is idle and holds its registers (60_exceptions.md R205). -/
  | idle
  /-- A descriptor is handed over; the state is what is left. -/
  | command (descriptor : List Byte) (rest : State)
  /-- The engine is reset; the state is what is left. -/
  | reset (rest : State)
  deriving DecidableEq, Repr

/-- The state with another list of inputs still to come; the engine itself is as it was. -/
def withHost (s : State) (rest : List HostEvent) : State := { s with host := rest }

/-- Take the host's next input off the list of its inputs. -/
def nextInput (s : State) : Input :=
  match s.host with
  | [] => .idle
  | .command d :: rest => .command d (withHost s rest)
  | .reset :: rest => .reset (withHost s rest)

/-- The status a decode fault is answered with (60_exceptions.md R191, R192). -/
def decodeStatus : DecodeError → Status
  | .errLength => .errLength
  | .errOpcode => .errOpcode

/-- One step of an engine that executes its commands by `run`: the host's next input, executed to completion (20_memory.md R58,
R59). With nothing handed over the engine idles; a reset input resets it; a descriptor is decoded and executed, and one that
does not decode is answered with its decode fault (30_encoding.md R78). -/
def stepBy (run : Instr → State → Host.Outcome State Fault Refusal) (s : State) : Host.Outcome State Fault Refusal :=
  match nextInput s with
  | .idle => .next s
  | .reset rest => .next (resetEngine rest)
  | .command d rest =>
    match decode d with
    | .error e => .next (raise rest (decodeStatus e))
    | .ok i => run i rest

end Sys2Proof.Machine
end

