-- ==== Sys2Proof/Machine/Context.lean ====
section
/-! DEFINITION. The context commands (42_context.md): CTXINIT, WRCTX, RDCTX, DERIVEOPC. -/

namespace Sys2Proof.Machine

/-- The personalization constants (R140): `C[0] = 0^16` and, for `i` in 1..7, `C[i] = 0^15 ‖ (1 << (i-1))`. -/
def personalization : Vector (Bytes 16) 8 :=
  Vector.ofFn fun i => Vector.ofFn fun j => if i.val ≠ 0 ∧ j.val = 15 then BitVec.ofNat 8 (1 <<< (i.val - 1)) else 0

/-- The context `CTXINIT` leaves (R141, 00_scope.md R8), with `FAULT` and the host's side as they were. -/
def freshContext (s : State) : State :=
  { s with
    op := zeros 32
    opc := zeros 32
    c := personalization
    keyW := 32
    resW := 8
    ckW := 32
    ikW := 32
    macW := 16
    nonceW := 16
    sqnW := 6
    akW := 6
    lifecycle := .setup }

/-- `CTXINIT` (R141): in every lifecycle state. -/
def execCtxinit (s : State) : Host.Outcome State Fault Refusal := .next (respond (freshContext s) .ok [])

/-- `WRCTX` (R142): the register is checked first, then the lifecycle (60_exceptions.md R195). -/
def execWrctx (reg : Byte) (data : Bytes 32) (s : State) : Host.Outcome State Fault Refusal :=
  match (regOf reg).bind (hostWrite s data) with
  | none => .next (raise s .errReg)
  | some t => if s.lifecycle = .setup then .next (respond t .ok []) else .next (raise s .errState)

/-- `RDCTX` (R143): in every lifecycle state. -/
def execRdctx (reg : Byte) (s : State) : Host.Outcome State Fault Refusal :=
  match regOf reg with
  | none => .next (raise s .errReg)
  | some r => .next (respond s .ok (readReg s r))

/-- The ASCII bytes of "MILENAGE2.0" (R145, 00_scope.md R1). -/
def algorithmName : List Byte := [0x4d, 0x49, 0x4c, 0x45, 0x4e, 0x41, 0x47, 0x45, 0x32, 0x2e, 0x30]

/-- The domain-separation vector `V` (R145): `KEY_W >> 5`, the identifier, 20 zero bytes. -/
def domainVector (s : State) : Block := padRight 32 (BitVec.ofNat 8 (s.keyW.toNat >>> 5) :: algorithmName)

/-- `OPC = OP xor encrypt(PK, V xor encrypt(PK, OP))` (R144). -/
def derivedOpc (A : Aes) (s : State) (key : Bytes 32) : Block :=
  let pk := padKey s key
  let t := encryptBlock A pk s.op
  let t := xorBytes t (domainVector s)
  let t := encryptBlock A pk t
  xorBytes t s.op

/-- `DERIVEOPC` (R144), at any parameters: the lifecycle is checked first, then the configuration. -/
def deriveopcWith (P : Params) (key : Bytes 32) (s : State) : State :=
  if s.lifecycle = .setup then
    if CfgOk s then respond { s with opc := derivedOpc P.aes s key, lifecycle := .ready } .ok []
    else raise s .errConfig
  else raise s .errState

/-- `DERIVEOPC` (R144), at the engine's parameters. -/
def execDeriveopc (key : Bytes 32) (s : State) : Host.Outcome State Fault Refusal :=
  .next (deriveopcWith engineParams key s)

end Sys2Proof.Machine
end

