-- ==== Sys2Proof/Machine/Encrypt.lean ====
section
/-! DEFINITION. The cipher command (41_cipher.md R127). -/

namespace Sys2Proof.Machine

/-- `ENCRYPT` (R127), at any parameters: in every lifecycle state, reading and writing no register. -/
def encryptWith (P : Params) (key block : Bytes 32) (s : State) : State :=
  respond s .ok (encryptBlock P.aes key block).toList

/-- `ENCRYPT` (R127), at the engine's parameters. -/
def execEncrypt (key block : Bytes 32) (s : State) : Host.Outcome State Fault Refusal :=
  .next (encryptWith engineParams key block s)

end Sys2Proof.Machine
end

