-- ==== Sys2Proof/Machine/Suite.lean ====
section
/-! DEFINITION. The MILENAGE2.0 function suite (43_suite.md): the core transform, the packed bytes, the command skeleton, and the
meanings of F1S, F1, F2, F3, F4, F5, F5S, F5SS. -/

namespace Sys2Proof.Machine

/-! ## The packed bytes -/

/-- `Byte0(idx) = (idx << 5) | (NONCE_W − 2) | (KEY_W >> 5)` (R164), computed in the naturals (92 D28). -/
def byte0 (s : State) (idx : Nat) : Nat := (idx <<< 5) ||| (s.nonceW.toNat - 2) ||| (s.keyW.toNat >>> 5)

/-- The metadata byte of f1s and f1: `(F1_HI << 5) | (MAC_W − 1)` (R166). -/
def metaMac (adj : Nat) (s : State) : Nat := ((f1Hi adj s).toNat <<< 5) ||| (s.macW.toNat - 1)

/-- The metadata byte of f2: `RES_W − 1` (R165). -/
def metaF2 (s : State) : Nat := s.resW.toNat - 1

/-- The metadata byte of f3: `CK_W − 1` (R165). -/
def metaF3 (s : State) : Nat := s.ckW.toNat - 1

/-- The metadata byte of f4: `IK_W − 1` (R165). -/
def metaF4 (s : State) : Nat := s.ikW.toNat - 1

/-- The metadata byte of f5: `AK_W − 5` (R165). -/
def metaF5 (s : State) : Nat := s.akW.toNat - 5

/-- The metadata byte of f5s: `AK_W − 5` (R165). -/
def metaF5s (s : State) : Nat := s.akW.toNat - 5

/-- The metadata byte of f5ss: `((MAC_W − 1) << 3) | (AK_W − 5)` (R165). -/
def metaF5ss (s : State) : Nat := ((s.macW.toNat - 1) <<< 3) ||| (s.akW.toNat - 5)

/-! ## The core transform -/

/-- The bytes `xs` XORed into `b` from byte `start` on: the `^=` of R163. -/
def xorAt (b : Block) (start : Nat) (xs : List Byte) : Block :=
  Vector.ofFn fun i => b[i] ^^^ (if start ≤ i.val then xs.getD (i.val - start) 0 else 0)

/-- `InBlock(idx, meta, AMF, SQN, MACS)` (R163), in the order of its lines. The overlay of the resynchronization MAC is
`min(MAC_W, 30)` bytes long (90_conflicts.md C1). -/
def inBlock (s : State) (idx : Fin 8) (metadata : Nat) (o : SuiteOperands) : Block :=
  let b := zeros 32
  let b := xorAt b 0 [BitVec.ofNat 8 (byte0 s idx.val)]
  let b := xorAt b 1 [BitVec.ofNat 8 metadata]
  let b := xorAt b 2 (optBytes o.amf)
  let b := xorAt b 4 ((optBytes o.sqn).take s.sqnW.toNat)
  let b := xorAt b 2 ((optBytes o.macs).take (min s.macW.toNat 30))
  xorAt b 16 s.c[idx].toList

/-- `TEMP`: steps 1 to 3 of the core transform (R161, R162). -/
def tempBlock (A : Aes) (s : State) (o : SuiteOperands) : Block :=
  encryptBlock A (padKey s o.key) (xorBytes s.opc (nonceBlock s o.rand))

/-- `Core(idx, meta, K, RAND, AMF, SQN, MACS)` (R160, R178): steps 1 to 7. -/
def coreTransform (A : Aes) (s : State) (idx : Fin 8) (metadata : Nat) (o : SuiteOperands) : Block :=
  let s5 := xorBytes (xorBytes (tempBlock A s o) s.opc) (inBlock s idx metadata o)
  xorBytes (encryptBlock A (padKey s o.key) s5) s.opc

/-! ## The command skeleton (R180) -/

/-- Every byte a suite command reads: index, widths, `OPC`, `C[idx]` and operands. -/
def suiteInputs (s : State) (idx : Fin 8) (o : SuiteOperands) : List Byte :=
  [BitVec.ofNat 8 idx.val, s.keyW, s.resW, s.ckW, s.ikW, s.macW, s.nonceW, s.sqnW, s.akW]
    ++ s.opc.toList ++ s.c[idx].toList ++ o.key.toList ++ o.rand.toList
    ++ optBytes o.amf ++ optBytes o.sqn ++ optBytes o.macs

/-- Step 8 (R178, R180): the leading `n` bytes of the core transform. With widths outside `CFG_OK`, which no run reaches in
`READY` (R46, R167), the value is not specified: it is free (log entry 4), within the 32 bytes a response holds. -/
def suiteOutput (A : Aes) (s : State) (idx : Fin 8) (metadata n : Nat) (o : SuiteOperands) : List Byte :=
  if CfgOk s then (coreTransform A s idx metadata o).toList.take n
  else (Config.unspecifiedOutput (suiteInputs s idx o)).take 32

/-- A suite command other than `F1S` and `F1` (R180): `ERR_STATE` outside `READY`, else the leading `n` bytes. -/
def suiteCommand (P : Params) (idx : Fin 8) (metadata n : Nat) (o : SuiteOperands) (s : State) : State :=
  if s.lifecycle = .ready then respond s .ok (suiteOutput P.aes s idx metadata n o)
  else raise s .errState

/-- `F1S` or `F1` (R180): `ERR_STATE` outside `READY`, then `ERR_CONFIG` with `F1_HI` outside 0..7, else the MAC. -/
def macCommand (P : Params) (idx : Fin 8) (o : SuiteOperands) (s : State) : State :=
  if s.lifecycle = .ready then
    if F1HiOk P.widthAdj s then
      respond s .ok (suiteOutput P.aes s idx (metaMac P.widthAdj s) s.macW.toNat o)
    else raise s .errConfig
  else raise s .errState

/-! ## The eight commands, at any parameters (00_scope.md R9, R10) -/

/-- `F1S` (R168): index 0. -/
def f1sWith (P : Params) (key : Bytes 32) (rand : Bytes 16) (amf : Bytes 2) (sqn : Bytes 12) (s : State) : State :=
  macCommand P 0 ⟨key, rand, some amf, some sqn, none⟩ s

/-- `F1` (R169): index 1. -/
def f1With (P : Params) (key : Bytes 32) (rand : Bytes 16) (amf : Bytes 2) (sqn : Bytes 12) (s : State) : State :=
  macCommand P 1 ⟨key, rand, some amf, some sqn, none⟩ s

/-- `F2` (R170): index 2, `RES_W` bytes. -/
def f2With (P : Params) (key : Bytes 32) (rand : Bytes 16) (s : State) : State :=
  suiteCommand P 2 (metaF2 s) s.resW.toNat ⟨key, rand, none, none, none⟩ s

/-- `F3` (R171): index 3, `CK_W` bytes. -/
def f3With (P : Params) (key : Bytes 32) (rand : Bytes 16) (s : State) : State :=
  suiteCommand P 3 (metaF3 s) s.ckW.toNat ⟨key, rand, none, none, none⟩ s

/-- `F4` (R172): index 4, `IK_W` bytes. -/
def f4With (P : Params) (key : Bytes 32) (rand : Bytes 16) (s : State) : State :=
  suiteCommand P 4 (metaF4 s) s.ikW.toNat ⟨key, rand, none, none, none⟩ s

/-- `F5` (R173): index 5, `AK_W` bytes. -/
def f5With (P : Params) (key : Bytes 32) (rand : Bytes 16) (s : State) : State :=
  suiteCommand P 5 (metaF5 s) s.akW.toNat ⟨key, rand, none, none, none⟩ s

/-- `F5S` (R174): index 6, `AK_W` bytes. -/
def f5sWith (P : Params) (key : Bytes 32) (rand : Bytes 16) (s : State) : State :=
  suiteCommand P 6 (metaF5s s) s.akW.toNat ⟨key, rand, none, none, none⟩ s

/-- `F5SS` (R175): index 7, `AK_W` bytes, with the resynchronization MAC. -/
def f5ssWith (P : Params) (key : Bytes 32) (rand : Bytes 16) (macs : Bytes 32) (s : State) : State :=
  suiteCommand P 7 (metaF5ss s) s.akW.toNat ⟨key, rand, none, none, some macs⟩ s

/-! ## The eight commands of the engine -/

/-- `F1S` (R168), at the engine's parameters. -/
def execF1s (key : Bytes 32) (rand : Bytes 16) (amf : Bytes 2) (sqn : Bytes 12) (s : State) :
    Host.Outcome State Fault Refusal := .next (f1sWith engineParams key rand amf sqn s)

/-- `F1` (R169), at the engine's parameters. -/
def execF1 (key : Bytes 32) (rand : Bytes 16) (amf : Bytes 2) (sqn : Bytes 12) (s : State) :
    Host.Outcome State Fault Refusal := .next (f1With engineParams key rand amf sqn s)

/-- `F2` (R170), at the engine's parameters. -/
def execF2 (key : Bytes 32) (rand : Bytes 16) (s : State) :
    Host.Outcome State Fault Refusal := .next (f2With engineParams key rand s)

/-- `F3` (R171), at the engine's parameters. -/
def execF3 (key : Bytes 32) (rand : Bytes 16) (s : State) :
    Host.Outcome State Fault Refusal := .next (f3With engineParams key rand s)

/-- `F4` (R172), at the engine's parameters. -/
def execF4 (key : Bytes 32) (rand : Bytes 16) (s : State) :
    Host.Outcome State Fault Refusal := .next (f4With engineParams key rand s)

/-- `F5` (R173), at the engine's parameters. -/
def execF5 (key : Bytes 32) (rand : Bytes 16) (s : State) :
    Host.Outcome State Fault Refusal := .next (f5With engineParams key rand s)

/-- `F5S` (R174), at the engine's parameters. -/
def execF5s (key : Bytes 32) (rand : Bytes 16) (s : State) :
    Host.Outcome State Fault Refusal := .next (f5sWith engineParams key rand s)

/-- `F5SS` (R175), at the engine's parameters. -/
def execF5ss (key : Bytes 32) (rand : Bytes 16) (macs : Bytes 32) (s : State) :
    Host.Outcome State Fault Refusal := .next (f5ssWith engineParams key rand macs s)

end Sys2Proof.Machine
end

