-- ==== Sys2Proof/Machine/Dispatch.lean ====
section
/-! DEFINITION. One arm per command (30_encoding.md R74). -/

namespace Sys2Proof.Machine

def exec (i : Instr) (s : State) : Host.Outcome State Fault Refusal :=
  match i with
  | .f1s key rand amf sqn => Sys2Proof.Machine.execF1s key rand amf sqn s
  | .f1 key rand amf sqn => Sys2Proof.Machine.execF1 key rand amf sqn s
  | .f2 key rand => Sys2Proof.Machine.execF2 key rand s
  | .f3 key rand => Sys2Proof.Machine.execF3 key rand s
  | .f4 key rand => Sys2Proof.Machine.execF4 key rand s
  | .f5 key rand => Sys2Proof.Machine.execF5 key rand s
  | .f5s key rand => Sys2Proof.Machine.execF5s key rand s
  | .f5ss key rand macs => Sys2Proof.Machine.execF5ss key rand macs s
  | .ctxinit => Sys2Proof.Machine.execCtxinit s
  | .wrctx reg data => Sys2Proof.Machine.execWrctx reg data s
  | .rdctx reg => Sys2Proof.Machine.execRdctx reg s
  | .deriveopc key => Sys2Proof.Machine.execDeriveopc key s
  | .encrypt key block => Sys2Proof.Machine.execEncrypt key block s

end Sys2Proof.Machine
end

