-- ==== Sys2Proof/Machine/Step.lean ====
section
/-! DEFINITION. One step: the host's next input, executed to completion (20_memory.md R58, R59). -/

namespace Sys2Proof.Machine

/-- One step of the engine: `stepBy` with its commands. -/
def step (s : State) : Host.Outcome State Fault Refusal := stepBy exec s

/-- The state in which the host's next input is the descriptor whose bits are `w`; what the host does after it is as before. -/
def State.withFetchWord (s : State) (nbits w : Nat) : State :=
  { s with host := .command (descriptorOfBits nbits w) :: s.host }

end Sys2Proof.Machine
end

