-- ==== Sys2Proof/Machine/Assembler.lean ====
section
/-! DEFINITION. The assembler's lines and pseudo-instructions (30_encoding.md R80, R81): text to command. It is the host's notation
and carries no semantics (92 D24); no step uses it. Text is a list of characters, so that the kernel can evaluate it. -/

namespace Sys2Proof.Machine

/-- What the first word of a line names: a command (R80) or a pseudo-instruction (R81). -/
inductive AsmName where
  | command (m : Mnemonic)
  | setop
  | setw
  | getopc
  | getfault
  deriving DecidableEq, Repr

/-- The first words. -/
def asmNames : List (List Char × AsmName) :=
  [(['F', '1', 'S'], .command .f1s),
   (['F', '1'], .command .f1),
   (['F', '2'], .command .f2),
   (['F', '3'], .command .f3),
   (['F', '4'], .command .f4),
   (['F', '5'], .command .f5),
   (['F', '5', 'S'], .command .f5s),
   (['F', '5', 'S', 'S'], .command .f5ss),
   (['C', 'T', 'X', 'I', 'N', 'I', 'T'], .command .ctxinit),
   (['W', 'R', 'C', 'T', 'X'], .command .wrctx),
   (['R', 'D', 'C', 'T', 'X'], .command .rdctx),
   (['D', 'E', 'R', 'I', 'V', 'E', 'O', 'P', 'C'], .command .deriveopc),
   (['E', 'N', 'C', 'R', 'Y', 'P', 'T'], .command .encrypt),
   (['S', 'E', 'T', 'O', 'P'], .setop),
   (['S', 'E', 'T', 'W'], .setw),
   (['G', 'E', 'T', 'O', 'P', 'C'], .getopc),
   (['G', 'E', 'T', 'F', 'A', 'U', 'L', 'T'], .getfault)]

/-- The names of the width registers and their numbers (10_state.md R43). -/
def asmWidthNames : List (List Char × Byte) :=
  [(['K', 'E', 'Y', '_', 'W'], 0x10),
   (['R', 'E', 'S', '_', 'W'], 0x11),
   (['C', 'K', '_', 'W'], 0x12),
   (['I', 'K', '_', 'W'], 0x13),
   (['M', 'A', 'C', '_', 'W'], 0x14),
   (['N', 'O', 'N', 'C', 'E', '_', 'W'], 0x15),
   (['S', 'Q', 'N', '_', 'W'], 0x16),
   (['A', 'K', '_', 'W'], 0x17)]

/-- The names of the registers and their numbers (10_state.md R43). -/
def asmRegNames : List (List Char × Byte) :=
  [(['O', 'P'], 0x00),
   (['O', 'P', 'C'], 0x01),
   (['C', '[', '0', ']'], 0x08),
   (['C', '[', '1', ']'], 0x09),
   (['C', '[', '2', ']'], 0x0A),
   (['C', '[', '3', ']'], 0x0B),
   (['C', '[', '4', ']'], 0x0C),
   (['C', '[', '5', ']'], 0x0D),
   (['C', '[', '6', ']'], 0x0E),
   (['C', '[', '7', ']'], 0x0F),
   (['L', 'I', 'F', 'E', 'C', 'Y', 'C', 'L', 'E'], 0x20),
   (['F', 'A', 'U', 'L', 'T'], 0x21)]
    ++ asmWidthNames

/-- The value of a name in a table. -/
def lookupName {α : Type} (table : List (List Char × α)) (name : List Char) : Option α :=
  (table.find? fun row => row.1 == name).map fun row => row.2

def isBlank (c : Char) : Bool := c == ' ' || c == '\t'

/-- A text without the blanks at its ends. -/
def trimBlanks (t : List Char) : List Char := ((t.dropWhile isBlank).reverse.dropWhile isBlank).reverse

/-- The value of a hexadecimal digit. -/
def hexDigit (c : Char) : Option Nat :=
  if '0' ≤ c ∧ c ≤ '9' then some (c.toNat - 48)
  else if 'a' ≤ c ∧ c ≤ 'f' then some (c.toNat - 87)
  else if 'A' ≤ c ∧ c ≤ 'F' then some (c.toNat - 55)
  else none

/-- `<hex>`: pairs of hexadecimal digits, first byte first. No digit at all is the empty byte string, on which R80 is silent (DESIGN
CHOICE, log entry 9). -/
def hexBytes : List Char → Option (List Byte)
  | [] => some []
  | a :: b :: rest => do
    let x ← hexDigit a
    let y ← hexDigit b
    let bs ← hexBytes rest
    return BitVec.ofNat 8 (16 * x + y) :: bs
  | [_] => none

/-- A decimal number 0..255. Leading zeros are allowed (DESIGN CHOICE, log entry 9). -/
def decimalByte (t : List Char) : Option Byte :=
  if t ≠ [] ∧ t.all Char.isDigit then
    let n := t.foldl (fun n c => 10 * n + (c.toNat - 48)) 0
    if n < 256 then some (BitVec.ofNat 8 n) else none
  else none

/-- The operands of a line, parted by commas. -/
def splitCommas (t : List Char) : List (List Char) :=
  t.foldr (fun c parts =>
    match parts with
    | [] => [[c]]
    | p :: ps => if c = ',' then [] :: p :: ps else (c :: p) :: ps) [[]]

/-- An operand extended on the right with zero bytes to its field; one longer than its field is an assembly error. An empty one is
extended to a field of zeros (DESIGN CHOICE, log entry 9). -/
def asmField (n : Nat) (t : List Char) : Option (Bytes n) := do
  let bs ← hexBytes t
  if bs.length ≤ n then some (padRight n bs) else none

/-- `<reg>`: a register name, or a number `0x..`. -/
def asmReg (t : List Char) : Option Byte :=
  match t with
  | ['0', 'x', a, b] =>
    match hexBytes [a, b] with
    | some [n] => some n
    | _ => none
  | _ => lookupName asmRegNames t

/-- A named operand `name=hex`, as name and hex. Without a `=` it is read as `name=`, on which R80 is silent, and its field is all zero
(DESIGN CHOICE, log entry 9). -/
def asmNamed (t : List Char) : List Char × List Char :=
  (trimBlanks (t.takeWhile fun c => c != '='), trimBlanks ((t.dropWhile fun c => c != '=').drop 1))

/-- The field of a named operand. -/
def namedField (n : Nat) (ops : List (List Char × List Char)) (name : List Char) : Option (Bytes n) :=
  (lookupName ops name).bind (asmField n)

def nameKey : List Char := ['k', 'e', 'y']
def nameRand : List Char := ['r', 'a', 'n', 'd']
def nameAmf : List Char := ['a', 'm', 'f']
def nameSqn : List Char := ['s', 'q', 'n']
def nameMacs : List Char := ['m', 'a', 'c', 's']
def nameBlock : List Char := ['b', 'l', 'o', 'c', 'k']

/-- The line `F2 key=<hex>, rand=<hex>` and its like: two named operands in any order. -/
def asmPlain (mk : Bytes 32 → Bytes 16 → Instr) (ops : List (List Char)) : Option Instr := do
  let named := ops.map asmNamed
  if ops.length ≠ 2 then none
  else return mk (← namedField 32 named nameKey) (← namedField 16 named nameRand)

/-- The line `F1 key=<hex>, rand=<hex>, amf=<hex>, sqn=<hex>` and its like. -/
def asmMac (mk : Bytes 32 → Bytes 16 → Bytes 2 → Bytes 12 → Instr) (ops : List (List Char)) : Option Instr := do
  let named := ops.map asmNamed
  if ops.length ≠ 4 then none
  else
    return mk (← namedField 32 named nameKey) (← namedField 16 named nameRand) (← namedField 2 named nameAmf) (← namedField 12 named nameSqn)

/-- A command line's operands (R80). -/
def asmCommand (m : Mnemonic) (ops : List (List Char)) : Option Instr :=
  match m with
  | .f1s => asmMac .f1s ops
  | .f1 => asmMac .f1 ops
  | .f2 => asmPlain .f2 ops
  | .f3 => asmPlain .f3 ops
  | .f4 => asmPlain .f4 ops
  | .f5 => asmPlain .f5 ops
  | .f5s => asmPlain .f5s ops
  | .f5ss => do
    let named := ops.map asmNamed
    if ops.length ≠ 3 then none
    else return .f5ss (← namedField 32 named nameKey) (← namedField 16 named nameRand) (← namedField 32 named nameMacs)
  | .ctxinit => if ops = [] then some .ctxinit else none
  | .wrctx =>
    match ops with
    | [reg, data] => do return .wrctx (← asmReg reg) (← asmField 32 data)
    | _ => none
  | .rdctx =>
    match ops with
    | [reg] => do return .rdctx (← asmReg reg)
    | _ => none
  | .deriveopc => do
    if ops.length ≠ 1 then none else return .deriveopc (← namedField 32 (ops.map asmNamed) nameKey)
  | .encrypt => do
    let named := ops.map asmNamed
    if ops.length ≠ 2 then none
    else return .encrypt (← namedField 32 named nameKey) (← namedField 32 named nameBlock)

/-- A line's first word and operands: a command, or a pseudo-instruction expanded to its one command (R81). -/
def asmExpand (name : AsmName) (ops : List (List Char)) : Option Instr :=
  match name with
  | .command m => asmCommand m ops
  | .setop =>
    match ops with
    | [data] => do return .wrctx 0x00 (← asmField 32 data)
    | _ => none
  | .setw =>
    match ops with
    | [w, n] => do return .wrctx (← lookupName asmWidthNames w) (padRight 32 [← decimalByte n])
    | _ => none
  | .getopc => if ops = [] then some (.rdctx 0x01) else none
  | .getfault => if ops = [] then some (.rdctx 0x21) else none

/-- One line of assembly (R80): `none` is an assembly error, `some none` a line with no command on it. A `;` starts a comment. -/
def assembleLine (line : List Char) : Option (Option Instr) :=
  let text := trimBlanks (line.takeWhile fun c => c != ';')
  if text = [] then some none
  else
    let name := text.takeWhile fun c => !isBlank c
    let rest := trimBlanks (text.dropWhile fun c => !isBlank c)
    let ops := if rest = [] then [] else (splitCommas rest).map trimBlanks
    match lookupName asmNames name with
    | none => none
    | some n => (asmExpand n ops).map some

end Sys2Proof.Machine
end

