-- ==== Sys2Proof/Machine/Parametric.lean ====
section
/-! DEFINITION. The machine with its parameters as arguments (00_scope.md R9, R10, 92 D13, D27, 93 U15): every command and the step
at any `AES` collaborator and any `WIDTH_ADJ`. `exec` and `step` are this machine at `engineParams`. -/

namespace Sys2Proof.Machine

/-- A command, at any parameters. `CTXINIT`, `WRCTX` and `RDCTX` read none. -/
def execWith (P : Params) (i : Instr) (s : State) : Host.Outcome State Fault Refusal :=
  match i with
  | .f1s key rand amf sqn => .next (f1sWith P key rand amf sqn s)
  | .f1 key rand amf sqn => .next (f1With P key rand amf sqn s)
  | .f2 key rand => .next (f2With P key rand s)
  | .f3 key rand => .next (f3With P key rand s)
  | .f4 key rand => .next (f4With P key rand s)
  | .f5 key rand => .next (f5With P key rand s)
  | .f5s key rand => .next (f5sWith P key rand s)
  | .f5ss key rand macs => .next (f5ssWith P key rand macs s)
  | .ctxinit => execCtxinit s
  | .wrctx reg data => execWrctx reg data s
  | .rdctx reg => execRdctx reg s
  | .deriveopc key => .next (deriveopcWith P key s)
  | .encrypt key block => .next (encryptWith P key block s)

/-- One step, at any parameters. -/
def stepWith (P : Params) (s : State) : Host.Outcome State Fault Refusal := stepBy (execWith P) s

end Sys2Proof.Machine
end

