-- ==== Sys2Proof/Safety.lean ====
section
/-! DEFINITION. The terms claims are made in: the state after a command that completes and after one that faults, written out field
by field; the invariant of the engine's runs; which commands write no register; the byte strings a command cannot tell apart. -/

namespace Sys2Proof.Machine

/-! ## The two ways a command ends -/

/-- The state after a command that answers `OK` with the given data and changes no register (30_encoding.md R76). -/
def afterOk (s : State) (data : List Byte) : State :=
  { s with
    responses := s.responses ++
      [{ status := .ok, len := BitVec.ofNat 8 data.length, data := Vector.ofFn fun i => data.getD i.val 0 }] }

/-- The state after a fault (60_exceptions.md R196): the code in `FAULT` if `FAULT` was 0, a response with the code and no data,
nothing else changed. -/
def afterFault (s : State) (code : Status) : State :=
  { s with
    fault := if s.fault = .ok then code else s.fault
    responses := s.responses ++ [{ status := code, len := 0, data := Vector.ofFn fun _ => 0 }] }

/-! ## Registers -/

/-- Every context register and `LIFECYCLE` are the same in two states. -/
def SameContext (s t : State) : Prop :=
  t.op = s.op ∧ t.opc = s.opc ∧ t.c = s.c
  ∧ t.keyW = s.keyW ∧ t.resW = s.resW ∧ t.ckW = s.ckW ∧ t.ikW = s.ikW
  ∧ t.macW = s.macW ∧ t.nonceW = s.nonceW ∧ t.sqnW = s.sqnW ∧ t.akW = s.akW
  ∧ t.lifecycle = s.lifecycle

/-- Every context register is zero (10_state.md R49). -/
abbrev ContextZero (s : State) : Prop :=
  s.op = zeros 32 ∧ s.opc = zeros 32 ∧ s.c = Vector.ofFn (fun _ => zeros 16)
  ∧ s.keyW = 0 ∧ s.resW = 0 ∧ s.ckW = 0 ∧ s.ikW = 0
  ∧ s.macW = 0 ∧ s.nonceW = 0 ∧ s.sqnW = 0 ∧ s.akW = 0

/-- The invariant of the engine's runs: in `UNINIT` the context is zero (R49); outside `READY` `OPC` is zero (R22); from
`CTXINIT` on the personalization constants stand (R23); in `READY` the widths are legal (R46). -/
abbrev EngineInv (s : State) : Prop :=
  (s.lifecycle = .uninit → ContextZero s)
  ∧ (s.lifecycle = .setup → s.opc = zeros 32 ∧ s.c = personalization)
  ∧ (s.lifecycle = .ready → s.c = personalization ∧ CfgOk s)

/-! ## Kinds of command -/

/-- The eight suite commands. -/
def isSuite : Instr → Bool
  | .f1s _ _ _ _ => true
  | .f1 _ _ _ _ => true
  | .f2 _ _ => true
  | .f3 _ _ => true
  | .f4 _ _ => true
  | .f5 _ _ => true
  | .f5s _ _ => true
  | .f5ss _ _ _ => true
  | .ctxinit => false
  | .wrctx _ _ => false
  | .rdctx _ => false
  | .deriveopc _ => false
  | .encrypt _ _ => false

/-- The commands that write no context register in any state: the suite, `RDCTX` and `ENCRYPT` (20_memory.md R58, R60). -/
def isReadOnly : Instr → Bool
  | .rdctx _ => true
  | .encrypt _ _ => true
  | i => isSuite i

/-! ## Numbers -/

/-- The assigned opcodes (30_encoding.md R77). -/
abbrev AssignedOpcode (op : Byte) : Prop :=
  op.toNat ≤ 0x07 ∨ (0x10 ≤ op.toNat ∧ op.toNat ≤ 0x13) ∨ op.toNat = 0x20

/-- The assigned register numbers (10_state.md R43). -/
abbrev AssignedReg (reg : Byte) : Prop :=
  reg.toNat ≤ 0x01 ∨ (0x08 ≤ reg.toNat ∧ reg.toNat ≤ 0x17) ∨ reg.toNat = 0x20 ∨ reg.toNat = 0x21

/-- The register numbers the host may write (10_state.md R43). -/
abbrev HostWritable (reg : Byte) : Prop := reg.toNat = 0x00 ∨ (0x10 ≤ reg.toNat ∧ reg.toNat ≤ 0x17)

/-! ## Byte strings -/

/-- The leading `n` bytes of a block (00_scope.md R12). -/
def leading (n : Nat) (b : Block) : List Byte := b.toList.take n

/-- Two fields hold the same leading `n` bytes; the others may differ (30_encoding.md R72). -/
def AgreeLeading {m : Nat} (n : Nat) (a b : Bytes m) : Prop := ∀ i, i < n → a.toList.getD i 0 = b.toList.getD i 0

/-! ## Histories -/

/-- The status of the first faulting command of a list of responses, `ok` if none faulted. -/
def firstFault : List Response → Status
  | [] => .ok
  | r :: rs => if r.status = .ok then firstFault rs else r.status

/-- The number of descriptors among the host's inputs. -/
def commandCount : List HostEvent → Nat
  | [] => 0
  | .command _ :: rest => commandCount rest + 1
  | .reset :: rest => commandCount rest

/-- A run is safe when no command of it has faulted: nothing is recorded in `FAULT` (10_state.md R42). -/
abbrev NoFaultRecorded (s : State) : Prop := s.fault = .ok

end Sys2Proof.Machine
end

