-- ==== Sys2Proof/Certificates/Slice0/Obligations.lean ====
section
/-! DEFINITION. The statements for the provers. Each docstring names the rules of spec/ it formalises. -/

open Sys2Proof Sys2Proof.Machine

/-! ## Encoding (30_encoding.md) -/

/-- Decoding the descriptor of a command gives the command back, with every operand at every value. -/
def Obligations.EncodeThenDecodeGivesTheCommand : Prop :=
  ∀ i : Instr, decode (encode i) = .ok i

/-- A descriptor that decodes is the descriptor of the command it decodes to: no bit of it is dropped. -/
def Obligations.DecodeThenEncodeGivesTheDescriptor : Prop :=
  ∀ (d : List Byte) (i : Instr), decode d = .ok i → encode i = d

/-- The decoding procedure of R78, on every byte string: empty, reserved opcode, wrong length, and otherwise the command of the
opcode's row (R71, R74), with the length R78 gives it and its fields cut from the descriptor. -/
def Obligations.DecodingProcedure : Prop :=
  ∀ d : List Byte,
    (d = [] → decode d = .error .errLength)
    ∧ (∀ op rest, d = op :: rest →
        (¬ AssignedOpcode op → decode d = .error .errOpcode)
        ∧ (AssignedOpcode op → ∃ row, opcodeRow op = some row
            ∧ row.format.length = (if op.toNat ≤ 0x01 then 63 else if op.toNat ≤ 0x06 then 49 else if op.toNat = 0x07 then 81
                else if op.toNat = 0x10 then 1 else if op.toNat = 0x11 then 34 else if op.toNat = 0x12 then 2
                else if op.toNat = 0x13 then 33 else 65)
            ∧ (d.length ≠ row.format.length → decode d = .error .errLength)
            ∧ (d.length = row.format.length → ∃ i, decode d = .ok i ∧ i.mnemonic = row.mnemonic ∧ encode i = d)))

/-- A few descriptors written out from R71 and R74 decode to the command they stand for. -/
def Obligations.SpecDescriptorsDecode : Prop :=
  decode [0x10] = .ok .ctxinit
  ∧ decode [0x12, 0x21] = .ok (.rdctx 0x21)
  ∧ decode (0x11 :: 0x10 :: 0x10 :: List.replicate 31 0x5a) = .ok (.wrctx 0x10 (padRight 32 (0x10 :: List.replicate 31 0x5a)))
  ∧ decode (0x13 :: List.replicate 32 0xaa) = .ok (.deriveopc (padRight 32 (List.replicate 32 0xaa)))
  ∧ decode (0x02 :: (List.replicate 32 0xaa ++ List.replicate 16 0xbb))
      = .ok (.f2 (padRight 32 (List.replicate 32 0xaa)) (padRight 16 (List.replicate 16 0xbb)))
  ∧ decode (0x01 :: (List.replicate 32 0xaa ++ List.replicate 16 0xbb ++ [0xc1, 0xc2] ++ List.replicate 12 0xdd))
      = .ok (.f1 (padRight 32 (List.replicate 32 0xaa)) (padRight 16 (List.replicate 16 0xbb)) #v[0xc1, 0xc2]
          (padRight 12 (List.replicate 12 0xdd)))
  ∧ decode (0x20 :: (List.replicate 32 0xaa ++ List.replicate 32 0xbb))
      = .ok (.encrypt (padRight 32 (List.replicate 32 0xaa)) (padRight 32 (List.replicate 32 0xbb)))

/-- The pseudo-instructions (R81), each one command: `SETOP` a write of `OP`, `SETW` a write of a width register with a decimal
number 0..255, `GETOPC` and `GETFAULT` reads. -/
def Obligations.PseudoInstructionsExpand : Prop :=
  (∀ text data, asmField 32 text = some data → asmExpand .setop [text] = some (.wrctx 0x00 data))
  ∧ (∀ row ∈ asmWidthNames, ∀ n : Byte,
      asmExpand .setw [row.1, Nat.toDigits 10 n.toNat] = some (.wrctx row.2 (padRight 32 [n])))
  ∧ asmExpand .getopc [] = some (.rdctx 0x01)
  ∧ asmExpand .getfault [] = some (.rdctx 0x21)

/-! ## Steps (20_memory.md, 70_reset_and_hazards.md) -/

/-- A step runs the decoded command: with a descriptor handed over that decodes, the step is `exec` of the command in the state
with that input taken. -/
def Obligations.StepRunsTheDecodedCommand : Prop :=
  ∀ (s : State) (d : List Byte) (rest : List HostEvent) (i : Instr),
    s.host = .command d :: rest → decode d = .ok i → step s = exec i (withHost s rest)

/-- Decode faults (R191, R192): a descriptor with a reserved opcode is answered `ERR_OPCODE`; an empty one, or one with an
assigned opcode and another length than its format's, `ERR_LENGTH`; nothing but `FAULT` changes. -/
def Obligations.DecodeFaultsAreAnswered : Prop :=
  ∀ (s : State) (d : List Byte) (rest : List HostEvent), s.host = .command d :: rest →
    (∀ op tl, d = op :: tl → ¬ AssignedOpcode op → step s = .next (afterFault (withHost s rest) .errOpcode))
    ∧ (d = [] → step s = .next (afterFault (withHost s rest) .errLength))
    ∧ (∀ op tl row, d = op :: tl → opcodeRow op = some row → d.length ≠ row.format.length →
        step s = .next (afterFault (withHost s rest) .errLength))

/-- Without a descriptor: the idle engine holds its state (R205; the model's reading, log entry 1), and the reset event gives
every register its reset value (R210) and returns nothing (R220). -/
def Obligations.StepWithoutACommand : Prop :=
  ∀ s : State,
    (s.host = [] → step s = .next s)
    ∧ (∀ rest, s.host = .reset :: rest → ∃ t, step s = .next t ∧ ContextZero t ∧ t.lifecycle = .uninit ∧ t.fault = .ok
        ∧ t.host = rest ∧ t.responses = s.responses)

/-- Every command, faulting or not, is answered by exactly one response of 34 bytes, with `LEN` at most 32, `DATA` zero from
`LEN` on, and nothing in it on a fault (R76). The engine never gets stuck (R199). -/
def Obligations.EveryCommandGetsOneResponse : Prop :=
  ∀ (s : State) (d : List Byte) (rest : List HostEvent), s.host = .command d :: rest →
    ∃ t r, step s = .next t ∧ t.host = rest ∧ t.responses = s.responses ++ [r]
      ∧ (responseBytes r).length = 34 ∧ r.len.toNat ≤ 32
      ∧ (∀ k : Fin 32, r.len.toNat ≤ k.val → r.data[k] = 0)
      ∧ (r.status ≠ .ok → r.len = 0 ∧ r.data = zeros 32)

/-- Every run ends (R218): after as many steps as the host has inputs, all inputs are taken and one response is delivered for
each descriptor, whatever the state and the inputs. -/
def Obligations.EveryRunEnds : Prop :=
  ∀ s : State, ∃ t : State, Host.Core.run Sys2Proof.core s.host.length s = .next t
    ∧ t.host = [] ∧ t.responses.length = s.responses.length + commandCount s.host

/-! ## The whole machine (10_state.md) -/

/-- The reset column and the `CTXINIT` column of R49. -/
def Obligations.ResetAndInitializationValues : Prop :=
  (ContextZero State.reset ∧ State.reset.lifecycle = .uninit ∧ State.reset.fault = .ok)
  ∧ ∀ s : State, ∃ t, exec .ctxinit s = .next t
      ∧ t.op = zeros 32 ∧ t.opc = zeros 32
      ∧ (∀ (i : Fin 8) (j : Fin 16),
          (t.c[i])[j] = if i.val ≠ 0 ∧ j.val = 15 then BitVec.ofNat 8 (1 <<< (i.val - 1)) else 0)
      ∧ t.keyW = 32 ∧ t.resW = 8 ∧ t.ckW = 32 ∧ t.ikW = 32 ∧ t.macW = 16 ∧ t.nonceW = 16 ∧ t.sqnW = 6 ∧ t.akW = 6
      ∧ t.lifecycle = .setup ∧ t.fault = s.fault

/-- The invariant holds at reset. -/
def Obligations.ResetMeetsTheInvariant : Prop := EngineInv State.reset

/-- Every step keeps the invariant: a zero context in `UNINIT`, `OPC` zero outside `READY`, the personalization constants from
`CTXINIT` on, legal widths in `READY`. -/
def Obligations.EveryStepKeepsTheInvariant : Prop :=
  ∀ s t : State, EngineInv s → step s = .next t → EngineInv t

/-- Who writes which register (R43, the column "written by the engine in", and the host's writes): nothing else changes any. -/
def Obligations.RegistersAreWrittenOnlyByTheirWriters : Prop :=
  ∀ (i : Instr) (s t : State), exec i s = .next t →
    (t.op ≠ s.op → i = .ctxinit ∨ ∃ data, i = .wrctx 0x00 data)
    ∧ (t.opc ≠ s.opc → i = .ctxinit ∨ ∃ key, i = .deriveopc key)
    ∧ (t.c ≠ s.c → i = .ctxinit)
    ∧ (t.keyW ≠ s.keyW → i = .ctxinit ∨ ∃ data, i = .wrctx 0x10 data)
    ∧ (t.resW ≠ s.resW → i = .ctxinit ∨ ∃ data, i = .wrctx 0x11 data)
    ∧ (t.ckW ≠ s.ckW → i = .ctxinit ∨ ∃ data, i = .wrctx 0x12 data)
    ∧ (t.ikW ≠ s.ikW → i = .ctxinit ∨ ∃ data, i = .wrctx 0x13 data)
    ∧ (t.macW ≠ s.macW → i = .ctxinit ∨ ∃ data, i = .wrctx 0x14 data)
    ∧ (t.nonceW ≠ s.nonceW → i = .ctxinit ∨ ∃ data, i = .wrctx 0x15 data)
    ∧ (t.sqnW ≠ s.sqnW → i = .ctxinit ∨ ∃ data, i = .wrctx 0x16 data)
    ∧ (t.akW ≠ s.akW → i = .ctxinit ∨ ∃ data, i = .wrctx 0x17 data)
    ∧ (t.lifecycle ≠ s.lifecycle → i = .ctxinit ∨ ∃ key, i = .deriveopc key)
    ∧ (t.fault ≠ s.fault → ∃ code, code ≠ .ok ∧ t = afterFault s code)
    ∧ t.host = s.host

/-- In `READY` the whole context is frozen: no command but `CTXINIT` changes a context register or `LIFECYCLE` (R41, R22). -/
def Obligations.ReadyContextIsFrozen : Prop :=
  ∀ (i : Instr) (s t : State), s.lifecycle = .ready → i ≠ .ctxinit → exec i s = .next t → SameContext s t

/-- The frame of the suite commands, `RDCTX` and `ENCRYPT`, in every state: the context and `LIFECYCLE` stay; one that answers
`OK` leaves `FAULT` too, so it changes nothing but the list of responses (R58). -/
def Obligations.ReadingCommandsWriteNoRegister : Prop :=
  ∀ (i : Instr) (s t : State), isReadOnly i = true → exec i s = .next t →
    SameContext s t ∧ t.host = s.host
    ∧ ∃ r, t = { s with fault := t.fault, responses := s.responses ++ [r] } ∧ (r.status = .ok → t.fault = s.fault)

/-- Two reading commands that do not fault may be issued in either order: the same two responses, and no register changed
(R60). -/
def Obligations.ReadingCommandsCommute : Prop :=
  ∀ (i j : Instr) (s ti tj : State) (ri rj : Response),
    isReadOnly i = true → isReadOnly j = true →
    exec i s = .next ti → ti.responses = s.responses ++ [ri] → ri.status = .ok →
    exec j s = .next tj → tj.responses = s.responses ++ [rj] → rj.status = .ok →
      exec j ti = .next { s with responses := s.responses ++ [ri, rj] }
      ∧ exec i tj = .next { s with responses := s.responses ++ [rj, ri] }

/-- `FAULT` holds the code of the first command that faulted: if it does before a command, it does after it (R42). -/
def Obligations.FaultRegisterHoldsTheFirstFault : Prop :=
  ∀ (s t : State) (d : List Byte) (rest : List HostEvent),
    s.fault = firstFault s.responses → s.host = .command d :: rest → step s = .next t → t.fault = firstFault t.responses

/-- Faults are precise (R196): a command that answers with a code other than `OK` has recorded the code in `FAULT` if `FAULT`
was 0, and changed nothing else. -/
def Obligations.FaultsArePrecise : Prop :=
  ∀ (i : Instr) (s t : State) (r : Response),
    exec i s = .next t → t.responses = s.responses ++ [r] → r.status ≠ .ok → t = afterFault s r.status

/-! ## Faults (60_exceptions.md) -/

/-- The codes of R190 and the values of `LIFECYCLE` (R41). -/
def Obligations.StatusAndLifecycleCodes : Prop :=
  Status.code .ok = 0x00 ∧ Status.code .errOpcode = 0x01 ∧ Status.code .errLength = 0x02 ∧ Status.code .errReg = 0x03
  ∧ Status.code .errState = 0x04 ∧ Status.code .errConfig = 0x05
  ∧ Lifecycle.code .uninit = 0 ∧ Lifecycle.code .setup = 1 ∧ Lifecycle.code .ready = 2

/-- The lifecycle matrix of R193, both ways: the entries `ERR_STATE`, and that no other command in no other state answers
`ERR_STATE`. -/
def Obligations.LifecycleMatrix : Prop :=
  ∀ s : State,
    (s.lifecycle ≠ .ready → ∀ i, isSuite i = true → exec i s = .next (afterFault s .errState))
    ∧ (s.lifecycle ≠ .setup → ∀ key, exec (.deriveopc key) s = .next (afterFault s .errState))
    ∧ (s.lifecycle ≠ .setup → ∀ reg data, HostWritable reg → exec (.wrctx reg data) s = .next (afterFault s .errState))
    ∧ (∀ i t r, exec i s = .next t → t.responses = s.responses ++ [r] → r.status = .errState →
        (isSuite i = true ∧ s.lifecycle ≠ .ready)
        ∨ ((∃ key, i = .deriveopc key) ∧ s.lifecycle ≠ .setup)
        ∨ ((∃ reg data, i = .wrctx reg data) ∧ s.lifecycle ≠ .setup))

/-- `ERR_REG` (R194): `RDCTX` of a number outside the register map, and `WRCTX` of one that is not host-writable, in every
lifecycle state (R195: before the lifecycle is looked at). -/
def Obligations.RegisterNumberFaults : Prop :=
  ∀ (s : State) (reg : Byte),
    (¬ AssignedReg reg → exec (.rdctx reg) s = .next (afterFault s .errReg))
    ∧ (¬ HostWritable reg → ∀ data, exec (.wrctx reg data) s = .next (afterFault s .errReg))

/-- `ERR_CONFIG` (R197): `DERIVEOPC` in `SETUP` with widths outside `CFG_OK`, and `F1S` and `F1` in `READY` with `F1_HI` outside
0..7; and no other command answers it. -/
def Obligations.ConfigurationFaults : Prop :=
  ∀ s : State,
    (s.lifecycle = .setup → ¬ CfgOk s → ∀ key, exec (.deriveopc key) s = .next (afterFault s .errConfig))
    ∧ (s.lifecycle = .ready → ¬ F1HiOk Config.widthAdj s → ∀ key rand amf sqn,
        exec (.f1s key rand amf sqn) s = .next (afterFault s .errConfig)
        ∧ exec (.f1 key rand amf sqn) s = .next (afterFault s .errConfig))
    ∧ (∀ i t r, exec i s = .next t → t.responses = s.responses ++ [r] → r.status = .errConfig →
        (s.lifecycle = .setup ∧ ¬ CfgOk s ∧ ∃ key, i = .deriveopc key)
        ∨ (s.lifecycle = .ready ∧ ¬ F1HiOk Config.widthAdj s
            ∧ ∃ key rand amf sqn, i = .f1s key rand amf sqn ∨ i = .f1 key rand amf sqn))

/-! ## The context commands (42_context.md) -/

/-- `CTXINIT` (R141): its descriptor, and, in every state, the whole state it leaves. -/
def Obligations.CtxinitResult : Prop :=
  decode [0x10] = .ok .ctxinit
  ∧ ∀ s : State, exec .ctxinit s = .next (afterOk
    { s with
      op := zeros 32, opc := zeros 32, c := personalization
      keyW := 32, resW := 8, ckW := 32, ikW := 32, macW := 16, nonceW := 16, sqnW := 6, akW := 6
      lifecycle := .setup } [])

/-- `WRCTX` (R142): its descriptor. In `SETUP`: `OP` takes the whole field, each width register its first byte, any value; nothing else
changes. Outside `SETUP` a writable register answers `ERR_STATE`, and a number that is not host-writable `ERR_REG` in every
state. -/
def Obligations.WrctxResult : Prop :=
  ∀ (s : State) (data : Bytes 32),
    (∀ reg, decode (0x11 :: reg :: data.toList) = .ok (.wrctx reg data))
    ∧ (s.lifecycle = .setup →
      exec (.wrctx 0x00 data) s = .next (afterOk { s with op := data } [])
      ∧ exec (.wrctx 0x10 data) s = .next (afterOk { s with keyW := data[0] } [])
      ∧ exec (.wrctx 0x11 data) s = .next (afterOk { s with resW := data[0] } [])
      ∧ exec (.wrctx 0x12 data) s = .next (afterOk { s with ckW := data[0] } [])
      ∧ exec (.wrctx 0x13 data) s = .next (afterOk { s with ikW := data[0] } [])
      ∧ exec (.wrctx 0x14 data) s = .next (afterOk { s with macW := data[0] } [])
      ∧ exec (.wrctx 0x15 data) s = .next (afterOk { s with nonceW := data[0] } [])
      ∧ exec (.wrctx 0x16 data) s = .next (afterOk { s with sqnW := data[0] } [])
      ∧ exec (.wrctx 0x17 data) s = .next (afterOk { s with akW := data[0] } []))
    ∧ (s.lifecycle ≠ .setup → ∀ reg, HostWritable reg → exec (.wrctx reg data) s = .next (afterFault s .errState))
    ∧ (∀ reg, ¬ HostWritable reg → exec (.wrctx reg data) s = .next (afterFault s .errReg))

/-- `RDCTX` (R143, R43): its descriptor; every register is answered whole in every state, and an unassigned number answers `ERR_REG`. -/
def Obligations.RdctxResult : Prop :=
  ∀ s : State,
    (∀ reg, decode [0x12, reg] = .ok (.rdctx reg))
    ∧ exec (.rdctx 0x00) s = .next (afterOk s s.op.toList)
    ∧ exec (.rdctx 0x01) s = .next (afterOk s s.opc.toList)
    ∧ (∀ i : Fin 8, exec (.rdctx (BitVec.ofNat 8 (0x08 + i.val))) s = .next (afterOk s (s.c[i]).toList))
    ∧ exec (.rdctx 0x10) s = .next (afterOk s [s.keyW])
    ∧ exec (.rdctx 0x11) s = .next (afterOk s [s.resW])
    ∧ exec (.rdctx 0x12) s = .next (afterOk s [s.ckW])
    ∧ exec (.rdctx 0x13) s = .next (afterOk s [s.ikW])
    ∧ exec (.rdctx 0x14) s = .next (afterOk s [s.macW])
    ∧ exec (.rdctx 0x15) s = .next (afterOk s [s.nonceW])
    ∧ exec (.rdctx 0x16) s = .next (afterOk s [s.sqnW])
    ∧ exec (.rdctx 0x17) s = .next (afterOk s [s.akW])
    ∧ exec (.rdctx 0x20) s = .next (afterOk s [s.lifecycle.code])
    ∧ exec (.rdctx 0x21) s = .next (afterOk s [s.fault.code])
    ∧ (∀ reg, ¬ AssignedReg reg → exec (.rdctx reg) s = .next (afterFault s .errReg))

/-- A `RDCTX` after a `WRCTX` of the same register returns the value written, legal or not (R59, R32). -/
def Obligations.ReadAfterWriteReturnsTheValue : Prop :=
  ∀ (s : State) (reg : Byte) (data : Bytes 32), s.lifecycle = .setup → HostWritable reg →
    ∃ t, exec (.wrctx reg data) s = .next t
      ∧ exec (.rdctx reg) t = .next (afterOk t (if reg = 0x00 then data.toList else [data[0]]))

/-- `DERIVEOPC` (R144): its descriptor; in `SETUP` with legal widths `OPC = OP xor encrypt(PK, V xor encrypt(PK, OP))`, `LIFECYCLE` is `READY`, an
empty answer, nothing else changed; outside `SETUP` `ERR_STATE`; in `SETUP` with illegal widths `ERR_CONFIG`. -/
def Obligations.DeriveopcResult : Prop :=
  ∀ (s : State) (key : Bytes 32),
    decode (0x13 :: key.toList) = .ok (.deriveopc key)
    ∧ (s.lifecycle = .setup → CfgOk s →
      exec (.deriveopc key) s = .next (afterOk
        { s with
          opc := xorBytes s.op (encryptBlock fips197 (padKey s key)
            (xorBytes (domainVector s) (encryptBlock fips197 (padKey s key) s.op)))
          lifecycle := .ready } []))
    ∧ (s.lifecycle = .setup → ¬ CfgOk s → exec (.deriveopc key) s = .next (afterFault s .errConfig))
    ∧ (s.lifecycle ≠ .setup → exec (.deriveopc key) s = .next (afterFault s .errState))

/-- The domain-separation vector `V` (R145): `KEY_W >> 5` (1 for 32, 0 for 1..31), the ASCII bytes of "MILENAGE2.0", 20 zero
bytes. -/
def Obligations.DomainVectorBytes : Prop :=
  ∀ s : State,
    (domainVector s).toList = BitVec.ofNat 8 (s.keyW.toNat >>> 5)
      :: [0x4d, 0x49, 0x4c, 0x45, 0x4e, 0x41, 0x47, 0x45, 0x32, 0x2e, 0x30] ++ List.replicate 20 0
    ∧ (s.keyW.toNat = 32 → (domainVector s)[0] = 1)
    ∧ (1 ≤ s.keyW.toNat → s.keyW.toNat ≤ 31 → (domainVector s)[0] = 0)

/-- The padded key (R161): the leading `KEY_W` bytes, then zeros; the key itself for `KEY_W = 32`. -/
def Obligations.PaddedKeyBytes : Prop :=
  ∀ (s : State) (key : Bytes 32),
    (∀ i : Fin 32, (padKey s key)[i] = if i.val < s.keyW.toNat then key[i] else 0)
    ∧ (s.keyW.toNat = 32 → padKey s key = key)

/-- What the rules do not separate (R146): two contexts with equal `OP`, widths both below 32 and equal padded keys derive
equal `OPC`. -/
def Obligations.EqualPaddedKeysDeriveEqualOpc : Prop :=
  ∀ (s s' t t' : State) (key key' : Bytes 32),
    s.lifecycle = .setup → s'.lifecycle = .setup → CfgOk s → CfgOk s' →
    s.op = s'.op → s.keyW.toNat < 32 → s'.keyW.toNat < 32 → padKey s key = padKey s' key' →
    exec (.deriveopc key) s = .next t → exec (.deriveopc key') s' = .next t' → t.opc = t'.opc

/-! ## The cipher (40_aes_primitive.md, 41_cipher.md) -/

/-- `ENCRYPT` (R127): its descriptor, and, in every state, the ciphertext block of 32 bytes, no register read or written. -/
def Obligations.EncryptResult : Prop :=
  ∀ (s : State) (key block : Bytes 32),
    decode (0x20 :: (key.toList ++ block.toList)) = .ok (.encrypt key block)
    ∧ exec (.encrypt key block) s = .next (afterOk s (encryptBlock fips197 key block).toList)

/-- For a fixed key the cipher is a bijection of the 32-byte blocks (R120, R126). -/
def Obligations.CipherIsABijection : Prop :=
  ∀ key : Bytes 32, Function.Bijective (encryptBlock fips197 key)

/-- The doubled construction is injective over any collaborator whose round operations are (93 U15): nothing more of the AES
internals is needed. -/
def Obligations.CipherIsInjectiveOverAnyCollaborator : Prop :=
  ∀ A : Aes, Function.Injective A.subBytes → Function.Injective A.shiftRows → Function.Injective A.mixColumns →
    (∀ k, Function.Injective fun s => A.addRoundKey s k) →
      ∀ key : Bytes 32, Function.Injective (encryptBlock A key)

/-- The equivalence of R128: shifting the rows of each lane of `Permute(s)` is the 8-column row shift of `s`, and `encrypt` is
Rijndael with `Nb = 8`, `Nk = 8` and 14 rounds, computed directly. -/
def Obligations.CipherIsRijndael256 : Prop :=
  (∀ s : Block, joinLanes (shiftRows (laneA (permute s))) (shiftRows (laneB (permute s))) = shiftRows8 s)
  ∧ ∀ key input : Bytes 32, encryptBlock fips197 key input = rijndael256 key input

/-- The table `PERM` is the formula of R124 and a bijection that treats the lanes alike; `Permute` is the gather by it, and the
scatter by the table `INV` (R125). -/
def Obligations.PermutationTable : Prop :=
  (∀ (l : Fin 2) (j r : Fin 4),
      (permTable.toList.getD (r.val + 4 * (4 * l.val + j.val)) 0).val
        = r.val + 4 * ((4 * l.val + (j.val + 4 - r.val) % 4 + [0, 1, 3, 4].getD r.val 0) % 8))
  ∧ (Function.Bijective fun i : Fin 32 => permTable[i])
  ∧ (∀ i : Fin 32, permTable[i + 16] = permTable[i] + 16)
  ∧ (∀ (s : Block) (i : Fin 32), (permute s)[i] = s[permTable[i]])
  ∧ (∀ (s : Block) (k : Fin 32),
      (permute s).toList.getD (([0, 17, 30, 31, 4, 5, 18, 19, 8, 9, 22, 23, 12, 13, 10, 27,
        16, 1, 14, 15, 20, 21, 2, 3, 24, 25, 6, 7, 28, 29, 26, 11] : List Nat).getD k.val 0) 0 = s[k])

/-- The key schedule (R121, R109): words 0..7 are the key, and the three cases of the recurrence hold for every later index, so
for all 120 words. -/
def Obligations.KeyScheduleRecurrence : Prop :=
  ∀ key : Bytes 32,
    (∀ (i : Fin 8) (k : Fin 4), (keyWord key i.val)[k] = key.toList.getD (4 * i.val + k.val) 0)
    ∧ (∀ i, 8 ≤ i → i % 8 = 0 →
        keyWord key i = xorBytes (xorBytes (keyWord key (i - 8)) (subWord (rotWord (keyWord key (i - 1))))) (rcon (i / 8)))
    ∧ (∀ i, 8 ≤ i → i % 8 = 4 → keyWord key i = xorBytes (keyWord key (i - 8)) (subWord (keyWord key (i - 1))))
    ∧ (∀ i, 8 ≤ i → i % 8 ≠ 0 → i % 8 ≠ 4 → keyWord key i = xorBytes (keyWord key (i - 8)) (keyWord key (i - 1)))

/-- The round-key pairs (R122): four words end to end for each lane; pair 0 is the key. -/
def Obligations.RoundKeyPairs : Prop :=
  ∀ key : Bytes 32,
    (∀ (r : Fin 15) (j : Fin 16),
      (roundKeyA fips197 key r.val)[j] = (keyWord key (8 * r.val + j.val / 4)).toList.getD (j.val % 4) 0
      ∧ (roundKeyB fips197 key r.val)[j] = (keyWord key (8 * r.val + 4 + j.val / 4)).toList.getD (j.val % 4) 0)
    ∧ roundKeyA fips197 key 0 = laneA key ∧ roundKeyB fips197 key 0 = laneB key

/-- The S-box table is the algebraic definition (R102), a bijection with no fixed point. -/
def Obligations.SboxTableIsTheAlgebraicSbox : Prop :=
  (∀ a : Byte, sbox a = sboxAlgebraic a) ∧ Function.Bijective sbox ∧ ∀ a : Byte, sbox a ≠ a

/-- `MixColumns` (R104) over `mul` of R111: each column by itself. -/
def Obligations.MixColumnsColumns : Prop :=
  ∀ (s : Lane) (c : Fin 4),
    let a := fun r => s.toList.getD (4 * c.val + r) 0
    let b := fun r => (mixColumns s).toList.getD (4 * c.val + r) 0
    b 0 = gfMul (a 0) 0x02 ^^^ gfMul (a 1) 0x03 ^^^ a 2 ^^^ a 3
    ∧ b 1 = a 0 ^^^ gfMul (a 1) 0x02 ^^^ gfMul (a 2) 0x03 ^^^ a 3
    ∧ b 2 = a 0 ^^^ a 1 ^^^ gfMul (a 2) 0x02 ^^^ gfMul (a 3) 0x03
    ∧ b 3 = gfMul (a 0) 0x03 ^^^ a 1 ^^^ a 2 ^^^ gfMul (a 3) 0x02

/-- `ShiftRows` rotates row `r` by `r` columns (R103), and `AddRoundKey` is bytewise XOR and its own inverse (R105). -/
def Obligations.ShiftRowsAndAddRoundKey : Prop :=
  (∀ (s : Lane) (r c : Fin 4),
      (shiftRows s).toList.getD (r.val + 4 * c.val) 0 = s.toList.getD (r.val + 4 * ((c.val + r.val) % 4)) 0)
  ∧ (∀ (s k : Lane) (i : Fin 16), (addRoundKey s k)[i] = s[i] ^^^ k[i])
  ∧ (∀ s k : Lane, addRoundKey (addRoundKey s k) k = s)

/-! ## The suite (43_suite.md) -/

/-- The core transform (R160, R162): `OPC xor encrypt(PK, encrypt(PK, OPC xor RAND') xor OPC xor IN)`, where `RAND'` is the
nonce's leading `NONCE_W` bytes followed by zeros. -/
def Obligations.CoreTransform : Prop :=
  ∀ (s : State) (idx : Fin 8) (metadata : Nat) (o : SuiteOperands),
    coreTransform fips197 s idx metadata o
      = xorBytes s.opc (encryptBlock fips197 (padKey s o.key)
          (xorBytes (xorBytes (encryptBlock fips197 (padKey s o.key) (xorBytes s.opc (nonceBlock s o.rand))) s.opc)
            (inBlock s idx metadata o)))
    ∧ (s.nonceW.toNat ≤ 16 → ∀ i : Fin 32,
        (nonceBlock s o.rand)[i] = if i.val < s.nonceW.toNat then o.rand.toList.getD i.val 0 else 0)

/-- The input-mixing block (R163), byte by byte: what each of its six lines XORs into byte `i`. -/
def Obligations.InputMixingBlockBytes : Prop :=
  ∀ (s : State) (idx : Fin 8) (metadata : Nat) (o : SuiteOperands) (i : Fin 32),
    (inBlock s idx metadata o)[i]
      = (if i.val = 0 then BitVec.ofNat 8 ((idx.val <<< 5) ||| (s.nonceW.toNat - 2) ||| (s.keyW.toNat >>> 5)) else 0)
        ^^^ (if i.val = 1 then BitVec.ofNat 8 metadata else 0)
        ^^^ (if 2 ≤ i.val ∧ i.val < 4 then (optBytes o.amf).getD (i.val - 2) 0 else 0)
        ^^^ (if 4 ≤ i.val ∧ i.val < 4 + s.sqnW.toNat then (optBytes o.sqn).getD (i.val - 4) 0 else 0)
        ^^^ (if 2 ≤ i.val ∧ i.val < 2 + min s.macW.toNat 30 then (optBytes o.macs).getD (i.val - 2) 0 else 0)
        ^^^ (if 16 ≤ i.val then (s.c[idx]).toList.getD (i.val - 16) 0 else 0)

/-- Byte 0 of the input-mixing block (R164), with legal widths: the function index in bits 7:5, bit 4 zero, at most 0xEF; for an
odd `NONCE_W` it does not depend on the key width (93 U5). -/
def Obligations.ByteZeroFields : Prop :=
  ∀ (s : State) (idx : Fin 8), CfgOk s →
    byte0 s idx.val = (idx.val <<< 5) ||| (s.nonceW.toNat - 2) ||| (s.keyW.toNat >>> 5)
    ∧ byte0 s idx.val / 32 = idx.val ∧ byte0 s idx.val / 16 % 2 = 0 ∧ byte0 s idx.val ≤ 0xEF
    ∧ (s.keyW.toNat >>> 5 = if s.keyW.toNat = 32 then 1 else 0)
    ∧ (s.nonceW.toNat % 2 = 1 → byte0 s idx.val = idx.val * 32 + (s.nonceW.toNat - 2))

/-- No packing expression overflows or goes negative, and no two fields of a metadata byte meet (R167, R165, R166). (The nonce-width
and key-width terms of byte 0 do share bit 0, R164.) -/
def Obligations.PackingNeverOverflows : Prop :=
  ∀ (s : State) (adj : Nat), CfgOk s →
    (∀ idx : Fin 8, byte0 s idx.val ≤ 0xEF)
    ∧ (metaF2 s + 1 = s.resW.toNat ∧ metaF2 s ≤ 31)
    ∧ (metaF3 s + 1 = s.ckW.toNat ∧ metaF3 s ≤ 31)
    ∧ (metaF4 s + 1 = s.ikW.toNat ∧ metaF4 s ≤ 31)
    ∧ (metaF5 s + 5 = s.akW.toNat ∧ metaF5 s ≤ 7)
    ∧ (metaF5s s + 5 = s.akW.toNat ∧ metaF5s s ≤ 7)
    ∧ (metaF5ss s ≤ 255 ∧ metaF5ss s / 8 + 1 = s.macW.toNat ∧ metaF5ss s % 8 + 5 = s.akW.toNat)
    ∧ (F1HiOk adj s → metaMac adj s ≤ 255 ∧ ((metaMac adj s / 32 : Nat) : Int) = f1Hi adj s
        ∧ metaMac adj s % 32 + 1 = s.macW.toNat)
    ∧ (4 + s.sqnW.toNat - 1 ≤ 15 ∧ 2 + min s.macW.toNat 30 - 1 ≤ 31)

/-- `F1S` (R168, R180): its descriptor; in `READY` with legal widths, the leading `MAC_W` bytes of the core transform of index 0 when `F1_HI` is in
0..7 and `ERR_CONFIG` when it is not; outside `READY` `ERR_STATE`. No register but `FAULT` on a fault. `WIDTH_ADJ` is open (log
entry 2), so both outcomes stand in one equation. -/
def Obligations.F1sResult : Prop :=
  ∀ (s : State) (key : Bytes 32) (rand : Bytes 16) (amf : Bytes 2) (sqn : Bytes 12),
    decode (0x00 :: (key.toList ++ rand.toList ++ amf.toList ++ sqn.toList)) = .ok (.f1s key rand amf sqn)
    ∧ (s.lifecycle = .ready → CfgOk s →
      exec (.f1s key rand amf sqn) s = .next (
        if F1HiOk Config.widthAdj s then
          afterOk s (leading s.macW.toNat (coreTransform fips197 s 0
            (((s.nonceW.toNat / Config.widthAdj - 5) <<< 5) ||| (s.macW.toNat - 1)) ⟨key, rand, some amf, some sqn, none⟩))
        else afterFault s .errConfig))
    ∧ (s.lifecycle ≠ .ready → exec (.f1s key rand amf sqn) s = .next (afterFault s .errState))

/-- `F1` (R169, R180): as `F1S`, with index 1. -/
def Obligations.F1Result : Prop :=
  ∀ (s : State) (key : Bytes 32) (rand : Bytes 16) (amf : Bytes 2) (sqn : Bytes 12),
    decode (0x01 :: (key.toList ++ rand.toList ++ amf.toList ++ sqn.toList)) = .ok (.f1 key rand amf sqn)
    ∧ (s.lifecycle = .ready → CfgOk s →
      exec (.f1 key rand amf sqn) s = .next (
        if F1HiOk Config.widthAdj s then
          afterOk s (leading s.macW.toNat (coreTransform fips197 s 1
            (((s.nonceW.toNat / Config.widthAdj - 5) <<< 5) ||| (s.macW.toNat - 1)) ⟨key, rand, some amf, some sqn, none⟩))
        else afterFault s .errConfig))
    ∧ (s.lifecycle ≠ .ready → exec (.f1 key rand amf sqn) s = .next (afterFault s .errState))

/-- `F1S` and `F1` complete, whatever the value of `WIDTH_ADJ` (R166, R180) and whatever the collaborator (R10): for every value
that puts `F1_HI` in 0..7, the skeleton of the two commands, in `READY` with legal widths, answers the leading `MAC_W` bytes of the
core transform; and the two commands are that skeleton at the engine's `WIDTH_ADJ` and the default collaborator. -/
def Obligations.MacCommandsOverEveryWidthAdj : Prop :=
  (∀ (s : State) (P : Params) (idx : Fin 8) (o : SuiteOperands),
    s.lifecycle = .ready → CfgOk s → 1 ≤ P.widthAdj → 5 ≤ s.nonceW.toNat / P.widthAdj → s.nonceW.toNat / P.widthAdj ≤ 12 →
      macCommand P idx o s = afterOk s (leading s.macW.toNat (coreTransform P.aes s idx
        (((s.nonceW.toNat / P.widthAdj - 5) <<< 5) ||| (s.macW.toNat - 1)) o)))
  ∧ (∀ (s : State) (P : Params) (idx : Fin 8) (o : SuiteOperands),
    s.lifecycle = .ready → 1 ≤ P.widthAdj → (s.nonceW.toNat / P.widthAdj < 5 ∨ 12 < s.nonceW.toNat / P.widthAdj) →
      macCommand P idx o s = afterFault s .errConfig)
  ∧ (∀ (s : State) (key : Bytes 32) (rand : Bytes 16) (amf : Bytes 2) (sqn : Bytes 12),
    exec (.f1s key rand amf sqn) s = .next (macCommand ⟨fips197, Config.widthAdj⟩ 0 ⟨key, rand, some amf, some sqn, none⟩ s)
    ∧ exec (.f1 key rand amf sqn) s = .next (macCommand ⟨fips197, Config.widthAdj⟩ 1 ⟨key, rand, some amf, some sqn, none⟩ s))

/-- `F2` (R170, R165, R180): its descriptor; in `READY` the leading `RES_W` bytes of its core transform and no register changed;
outside `READY` `ERR_STATE`. -/
def Obligations.F2Result : Prop :=
  ∀ (s : State) (key : Bytes 32) (rand : Bytes 16),
    decode (0x02 :: (key.toList ++ rand.toList)) = .ok (.f2 key rand)
    ∧ (s.lifecycle = .ready → CfgOk s →
      exec (.f2 key rand) s = .next (afterOk s (leading s.resW.toNat
        (coreTransform fips197 s 2 (s.resW.toNat - 1) ⟨key, rand, none, none, none⟩))))
    ∧ (s.lifecycle ≠ .ready → exec (.f2 key rand) s = .next (afterFault s .errState))

/-- `F3` (R171, R165, R180): its descriptor; in `READY` the leading `CK_W` bytes of its core transform and no register changed;
outside `READY` `ERR_STATE`. -/
def Obligations.F3Result : Prop :=
  ∀ (s : State) (key : Bytes 32) (rand : Bytes 16),
    decode (0x03 :: (key.toList ++ rand.toList)) = .ok (.f3 key rand)
    ∧ (s.lifecycle = .ready → CfgOk s →
      exec (.f3 key rand) s = .next (afterOk s (leading s.ckW.toNat
        (coreTransform fips197 s 3 (s.ckW.toNat - 1) ⟨key, rand, none, none, none⟩))))
    ∧ (s.lifecycle ≠ .ready → exec (.f3 key rand) s = .next (afterFault s .errState))

/-- `F4` (R172, R165, R180): its descriptor; in `READY` the leading `IK_W` bytes of its core transform and no register changed;
outside `READY` `ERR_STATE`. -/
def Obligations.F4Result : Prop :=
  ∀ (s : State) (key : Bytes 32) (rand : Bytes 16),
    decode (0x04 :: (key.toList ++ rand.toList)) = .ok (.f4 key rand)
    ∧ (s.lifecycle = .ready → CfgOk s →
      exec (.f4 key rand) s = .next (afterOk s (leading s.ikW.toNat
        (coreTransform fips197 s 4 (s.ikW.toNat - 1) ⟨key, rand, none, none, none⟩))))
    ∧ (s.lifecycle ≠ .ready → exec (.f4 key rand) s = .next (afterFault s .errState))

/-- `F5` (R173, R165, R180): its descriptor; in `READY` the leading `AK_W` bytes of its core transform and no register changed;
outside `READY` `ERR_STATE`. -/
def Obligations.F5Result : Prop :=
  ∀ (s : State) (key : Bytes 32) (rand : Bytes 16),
    decode (0x05 :: (key.toList ++ rand.toList)) = .ok (.f5 key rand)
    ∧ (s.lifecycle = .ready → CfgOk s →
      exec (.f5 key rand) s = .next (afterOk s (leading s.akW.toNat
        (coreTransform fips197 s 5 (s.akW.toNat - 5) ⟨key, rand, none, none, none⟩))))
    ∧ (s.lifecycle ≠ .ready → exec (.f5 key rand) s = .next (afterFault s .errState))

/-- `F5S` (R174, R165, R180): its descriptor; in `READY` the leading `AK_W` bytes of its core transform and no register changed;
outside `READY` `ERR_STATE`. -/
def Obligations.F5sResult : Prop :=
  ∀ (s : State) (key : Bytes 32) (rand : Bytes 16),
    decode (0x06 :: (key.toList ++ rand.toList)) = .ok (.f5s key rand)
    ∧ (s.lifecycle = .ready → CfgOk s →
      exec (.f5s key rand) s = .next (afterOk s (leading s.akW.toNat
        (coreTransform fips197 s 6 (s.akW.toNat - 5) ⟨key, rand, none, none, none⟩))))
    ∧ (s.lifecycle ≠ .ready → exec (.f5s key rand) s = .next (afterFault s .errState))

/-- `F5SS` (R175, R165, R180): its descriptor; in `READY` the leading `AK_W` bytes of its core transform and no register changed;
outside `READY` `ERR_STATE`. -/
def Obligations.F5ssResult : Prop :=
  ∀ (s : State) (key : Bytes 32) (rand : Bytes 16) (macs : Bytes 32),
    decode (0x07 :: (key.toList ++ rand.toList ++ macs.toList)) = .ok (.f5ss key rand macs)
    ∧ (s.lifecycle = .ready → CfgOk s →
      exec (.f5ss key rand macs) s = .next (afterOk s (leading s.akW.toNat
        (coreTransform fips197 s 7 (((s.macW.toNat - 1) <<< 3) ||| (s.akW.toNat - 5)) ⟨key, rand, none, none, some macs⟩))))
    ∧ (s.lifecycle ≠ .ready → exec (.f5ss key rand macs) s = .next (afterFault s .errState))

/-- Ignored bytes never matter (R72, R55): two commands whose fields agree on the bytes the configured widths use do the same. -/
def Obligations.IgnoredOperandBytesNeverMatter : Prop :=
  ∀ (s : State) (key key' : Bytes 32) (rand rand' : Bytes 16), CfgOk s →
    AgreeLeading s.keyW.toNat key key' → AgreeLeading s.nonceW.toNat rand rand' →
      (∀ amf sqn sqn', AgreeLeading s.sqnW.toNat sqn sqn' →
        exec (.f1s key rand amf sqn) s = exec (.f1s key' rand' amf sqn') s
        ∧ exec (.f1 key rand amf sqn) s = exec (.f1 key' rand' amf sqn') s)
      ∧ exec (.f2 key rand) s = exec (.f2 key' rand') s
      ∧ exec (.f3 key rand) s = exec (.f3 key' rand') s
      ∧ exec (.f4 key rand) s = exec (.f4 key' rand') s
      ∧ exec (.f5 key rand) s = exec (.f5 key' rand') s
      ∧ exec (.f5s key rand) s = exec (.f5s key' rand') s
      ∧ (∀ macs macs', AgreeLeading (min s.macW.toNat 30) macs macs' →
        exec (.f5ss key rand macs) s = exec (.f5ss key' rand' macs') s)
      ∧ exec (.deriveopc key) s = exec (.deriveopc key') s
      ∧ (∀ reg data data', reg ≠ 0x00 → AgreeLeading 1 data data' →
        exec (.wrctx reg data) s = exec (.wrctx reg data') s)

/-- No suite command and no `ENCRYPT` reads `OP` (R21): with another `OP` the same answer, the same other registers. -/
def Obligations.SuiteAndEncryptNeverReadOp : Prop :=
  ∀ (i : Instr) (s t : State) (op' : Bytes 32),
    (isSuite i = true ∨ ∃ key block, i = .encrypt key block) →
    exec i s = .next t → exec i { s with op := op' } = .next { t with op := op' }

/-- The f5ss overlay and the constant `C[7]` (R177), in `READY`: on bytes 16..30 the MAC bytes stand as they are, and byte 31 is
`MACS[29] xor 0x40` when `MAC_W >= 30` and 0x40 otherwise. -/
def Obligations.OverlayMeetsTheConstant : Prop :=
  ∀ (s : State) (key : Bytes 32) (rand : Bytes 16) (macs : Bytes 32) (metadata : Nat),
    EngineInv s → s.lifecycle = .ready →
    let block := inBlock s 7 metadata ⟨key, rand, none, none, some macs⟩
    (∀ i : Fin 32, 16 ≤ i.val → i.val ≤ 30 → i.val < 2 + min s.macW.toNat 30 → block[i] = macs.toList.getD (i.val - 2) 0)
    ∧ (∀ i : Fin 32, 16 ≤ i.val → i.val ≤ 30 → 2 + min s.macW.toNat 30 ≤ i.val → block[i] = 0)
    ∧ (30 ≤ s.macW.toNat → block[31] = macs[29] ^^^ 0x40)
    ∧ (s.macW.toNat < 30 → block[31] = 0x40)

/-- Separation (R179): under one key and nonce, two suite calls whose input-mixing blocks differ have different 32-byte results;
so two functions always have, and so has one function with a difference in the used bytes of `SQN`. -/
def Obligations.DifferentInputBlocksGiveDifferentResults : Prop :=
  ∀ (s : State) (idx idx' : Fin 8) (metadata metadata' : Nat) (o o' : SuiteOperands),
    o.key = o'.key → o.rand = o'.rand →
    (inBlock s idx metadata o ≠ inBlock s idx' metadata' o' →
      coreTransform fips197 s idx metadata o ≠ coreTransform fips197 s idx' metadata' o')
    ∧ (CfgOk s → idx ≠ idx' → coreTransform fips197 s idx metadata o ≠ coreTransform fips197 s idx' metadata' o')
    ∧ (CfgOk s → idx = idx' → metadata = metadata' → o.amf = o'.amf → o.macs = none → o'.macs = none →
        (∃ k sqn sqn', k < s.sqnW.toNat ∧ o.sqn = some sqn ∧ o'.sqn = some sqn'
          ∧ sqn.toList.getD k 0 ≠ sqn'.toList.getD k 0) →
        coreTransform fips197 s idx metadata o ≠ coreTransform fips197 s idx' metadata' o')

/-! ## The machine with its parameters as arguments (00_scope.md R9, R10) -/

/-- The engine is the machine at the default collaborator (R10) and the open `WIDTH_ADJ` (R9): every command, and the step. -/
def Obligations.EngineIsTheMachineAtItsDefaultParameters : Prop :=
  (∀ (i : Instr) (s : State), exec i s = execWith ⟨fips197, Config.widthAdj⟩ i s)
  ∧ ∀ s : State, step s = stepWith ⟨fips197, Config.widthAdj⟩ s

/-- The machine at any collaborator and any `WIDTH_ADJ` (R9, R10, 93 U15): what the commands that read a parameter answer, that
`CTXINIT`, `WRCTX` and `RDCTX` read none, that a step runs the decoded command, and that every step keeps the invariant. -/
def Obligations.MachineAtAnyParameters : Prop :=
  ∀ P : Params,
    (∀ (s : State) (key : Bytes 32) (rand : Bytes 16), s.lifecycle = .ready → CfgOk s →
      execWith P (.f2 key rand) s = .next (afterOk s (leading s.resW.toNat
        (coreTransform P.aes s 2 (s.resW.toNat - 1) ⟨key, rand, none, none, none⟩)))
      ∧ execWith P (.f3 key rand) s = .next (afterOk s (leading s.ckW.toNat
        (coreTransform P.aes s 3 (s.ckW.toNat - 1) ⟨key, rand, none, none, none⟩)))
      ∧ execWith P (.f4 key rand) s = .next (afterOk s (leading s.ikW.toNat
        (coreTransform P.aes s 4 (s.ikW.toNat - 1) ⟨key, rand, none, none, none⟩)))
      ∧ execWith P (.f5 key rand) s = .next (afterOk s (leading s.akW.toNat
        (coreTransform P.aes s 5 (s.akW.toNat - 5) ⟨key, rand, none, none, none⟩)))
      ∧ execWith P (.f5s key rand) s = .next (afterOk s (leading s.akW.toNat
        (coreTransform P.aes s 6 (s.akW.toNat - 5) ⟨key, rand, none, none, none⟩)))
      ∧ (∀ macs, execWith P (.f5ss key rand macs) s = .next (afterOk s (leading s.akW.toNat
        (coreTransform P.aes s 7 (((s.macW.toNat - 1) <<< 3) ||| (s.akW.toNat - 5)) ⟨key, rand, none, none, some macs⟩))))
      ∧ (F1HiOk P.widthAdj s → ∀ amf sqn,
        execWith P (.f1s key rand amf sqn) s = .next (afterOk s (leading s.macW.toNat (coreTransform P.aes s 0
          (((s.nonceW.toNat / P.widthAdj - 5) <<< 5) ||| (s.macW.toNat - 1)) ⟨key, rand, some amf, some sqn, none⟩)))
        ∧ execWith P (.f1 key rand amf sqn) s = .next (afterOk s (leading s.macW.toNat (coreTransform P.aes s 1
          (((s.nonceW.toNat / P.widthAdj - 5) <<< 5) ||| (s.macW.toNat - 1)) ⟨key, rand, some amf, some sqn, none⟩)))))
    ∧ (∀ (s : State) (key : Bytes 32), s.lifecycle = .setup → CfgOk s →
      execWith P (.deriveopc key) s = .next (afterOk
        { s with
          opc := xorBytes s.op (encryptBlock P.aes (padKey s key)
            (xorBytes (domainVector s) (encryptBlock P.aes (padKey s key) s.op)))
          lifecycle := .ready } []))
    ∧ (∀ (s : State) (key block : Bytes 32),
      execWith P (.encrypt key block) s = .next (afterOk s (encryptBlock P.aes key block).toList))
    ∧ (∀ (s : State) (reg : Byte) (data : Bytes 32),
      execWith P .ctxinit s = exec .ctxinit s ∧ execWith P (.wrctx reg data) s = exec (.wrctx reg data) s
      ∧ execWith P (.rdctx reg) s = exec (.rdctx reg) s)
    ∧ (∀ (s : State) (d : List Byte) (rest : List HostEvent) (i : Instr),
      s.host = .command d :: rest → decode d = .ok i → stepWith P s = execWith P i (withHost s rest))
    ∧ (∀ s t : State, EngineInv s → stepWith P s = .next t → EngineInv t)
end

