-- ==== Sys2Proof/Laws/Bytes.lean ====
section
/-! SUPPORT. What byte `i` of each byte string is, so that no proof unfolds how it was built. -/

namespace Sys2Proof

@[simp] theorem zeros_getElem (n i : Nat) (h : i < n) : (zeros n)[i] = 0 := by simp [zeros]

@[simp] theorem xorBytes_getElem {n : Nat} (x y : Bytes n) (i : Nat) (h : i < n) :
    (xorBytes x y)[i] = x[i] ^^^ y[i] := by simp [xorBytes]

@[simp] theorem field_getElem (n start : Nat) (d : List Byte) (i : Nat) (h : i < n) :
    (field n start d)[i] = d.getD (start + i) 0 := by simp [field]

@[simp] theorem padRight_getElem (n : Nat) (l : List Byte) (i : Nat) (h : i < n) :
    (padRight n l)[i] = l.getD i 0 := by simp [padRight]

/-- Byte `i` of a byte string read with a default. -/
theorem getD_toList {n : Nat} (v : Bytes n) (i : Nat) (h : i < n) (z : Byte) : v.toList.getD i z = v[i] := by
  simp [List.getD, h]

/-- No byte extended to no length: all zeros. -/
@[simp] theorem padRight_nil (n : Nat) : padRight n [] = zeros n := by
  ext i h; simp

/-- Byte `k` of the leading `n` bytes. -/
theorem take_getD (l : List Byte) (n k : Nat) : (l.take n).getD k 0 = if k < n then l.getD k 0 else 0 := by
  simp only [List.getD_eq_getElem?_getD, List.getElem?_take]
  split <;> rfl

/-- Extending a byte string to its own length changes nothing. -/
@[simp] theorem padRight_toList {n : Nat} (v : Bytes n) : padRight n v.toList = v := by
  ext1 i h; rw [padRight_getElem n _ i h, getD_toList v i h]

theorem xorBytes_comm {n : Nat} (x y : Bytes n) : xorBytes x y = xorBytes y x := by
  ext1 i h; rw [xorBytes_getElem _ _ i h, xorBytes_getElem _ _ i h, BitVec.xor_comm]

theorem xorBytes_assoc {n : Nat} (x y z : Bytes n) : xorBytes (xorBytes x y) z = xorBytes x (xorBytes y z) := by
  ext1 i h; simp only [xorBytes_getElem _ _ i h, BitVec.xor_assoc]

@[simp] theorem xorBytes_zeros {n : Nat} (x : Bytes n) : xorBytes x (zeros n) = x := by
  ext1 i h; simp

/-- XOR with the same byte string twice gives back the first. -/
@[simp] theorem xorBytes_cancel {n : Nat} (x k : Bytes n) : xorBytes (xorBytes x k) k = x := by
  ext1 i h; simp

namespace Machine

@[simp] theorem laneA_getElem (s : Block) (i : Nat) (h : i < 16) : (laneA s)[i] = s[i] := by
  rw [laneA, field_getElem _ _ _ i h, getD_toList s (0 + i) (by omega)]; simp

@[simp] theorem laneB_getElem (s : Block) (i : Nat) (h : i < 16) : (laneB s)[i] = s[16 + i] := by
  rw [laneB, field_getElem _ _ _ i h, getD_toList s (16 + i) (by omega)]

/-- Byte `i` of `A ‖ B`. -/
theorem joinLanes_getElem (a b : Lane) (i : Nat) (h : i < 32) :
    (joinLanes a b)[i] = if h' : i < 16 then a[i] else b[i - 16] := by
  rw [joinLanes, padRight_getElem _ _ i h]
  split
  · next h' => rw [List.getD_append _ _ _ _ (by simpa using h'), getD_toList a i h']
  · next h' =>
    rw [List.getD_append_right _ _ _ _ (by simpa using h')]
    simp only [Vector.length_toList]
    rw [getD_toList b (i - 16) (by omega)]

/-- The lanes of `A ‖ B` are `A` and `B`. -/
@[simp] theorem laneA_joinLanes (a b : Lane) : laneA (joinLanes a b) = a := by
  ext1 i h; rw [laneA_getElem _ i h, joinLanes_getElem _ _ i (by omega)]; simp [h]

@[simp] theorem laneB_joinLanes (a b : Lane) : laneB (joinLanes a b) = b := by
  ext1 i h; rw [laneB_getElem _ i h, joinLanes_getElem _ _ (16 + i) (by omega)]; simp

/-- A state is its two lanes (R123). -/
@[simp] theorem joinLanes_lanes (s : Block) : joinLanes (laneA s) (laneB s) = s := by
  ext1 i h
  rw [joinLanes_getElem _ _ i h]
  split
  · next h' => simp
  · next h' => rw [laneB_getElem _ _ (by omega)]; congr 1; omega

@[simp] theorem permute_getElem (s : Block) (i : Nat) (h : i < 32) :
    (permute s)[i] = s[(permTable[i]).val] := by simp [permute]

@[simp] theorem subBytes_getElem (s : Lane) (i : Nat) (h : i < 16) : (subBytes s)[i] = sbox s[i] := by simp [subBytes]

@[simp] theorem xorAt_getElem (b : Block) (start : Nat) (xs : List Byte) (i : Nat) (h : i < 32) :
    (xorAt b start xs)[i] = b[i] ^^^ (if start ≤ i then xs.getD (i - start) 0 else 0) := by simp [xorAt]

end Machine

end Sys2Proof
end

