-- ==== Sys2Proof/Laws/Decode.lean ====
section
/-! SUPPORT. The decoder's tables against the opcode map, and fields cut out of a descriptor put together from fields. -/

namespace Sys2Proof

/-- A field cut at the place where it was put. -/
theorem field_append {n start : Nat} (l : List Byte) (v : Bytes n) (r : List Byte) (h : l.length = start) :
    field n start (l ++ (v.toList ++ r)) = v := by
  ext1 i hi
  rw [field_getElem _ _ _ i hi, List.getD_append_right _ _ _ _ (by omega), List.getD_append _ _ _ _ (by simp; omega)]
  subst h
  rw [show l.length + i - l.length = i by omega, getD_toList v i hi]

/-- A field that lies inside a descriptor is that part of it. -/
theorem field_toList {n start : Nat} (d : List Byte) (h : start + n ≤ d.length) :
    (field n start d).toList = (d.drop start).take n := by
  apply List.ext_getElem
  · simp; omega
  · intro i h1 h2
    have hi : i < n := by simpa using h1
    simp only [Vector.getElem_toList, field_getElem _ _ _ i hi, List.getElem_take, List.getElem_drop]
    simp [List.getD, show start + i < d.length by omega]

/-- The decoder's mnemonic and length are those of the opcode's row (30_encoding.md R71, R74, R78). -/
theorem opcodeRow_agrees : ∀ op : Byte, ∀ row ∈ opcodeMap, opcodeRow op = some row →
    mnemonicOf op = some row.mnemonic ∧ requiredLength row.mnemonic = row.format.length := by decide +kernel

/-- An opcode without a row is reserved for the decoder. -/
theorem mnemonicOf_of_no_row : ∀ op : Byte, opcodeRow op = none → mnemonicOf op = none := by decide +kernel

/-- The opcode of a command's descriptor. -/
def opcodeByte : Mnemonic → Byte
  | .f1s => 0x00
  | .f1 => 0x01
  | .f2 => 0x02
  | .f3 => 0x03
  | .f4 => 0x04
  | .f5 => 0x05
  | .f5s => 0x06
  | .f5ss => 0x07
  | .ctxinit => 0x10
  | .wrctx => 0x11
  | .rdctx => 0x12
  | .deriveopc => 0x13
  | .encrypt => 0x20

/-- The decoder reads a mnemonic from one opcode only. -/
theorem mnemonicOf_eq_some {op : Byte} {m : Mnemonic} (h : mnemonicOf op = some m) : op = opcodeByte m := by
  revert op; cases m <;> decide +kernel

end Sys2Proof
end

