-- ==== Sys2Proof/Laws/State.lean ====
section
/-! SUPPORT. What each update of the state does to each field, one lemma per field per update, so that no proof unfolds a record
update. -/

namespace Sys2Proof.Machine

/-! ## Answering -/

@[simp] theorem respond_op (s : State) (st : Status) (d : List Byte) : (respond s st d).op = s.op := rfl
@[simp] theorem respond_opc (s : State) (st : Status) (d : List Byte) : (respond s st d).opc = s.opc := rfl
@[simp] theorem respond_c (s : State) (st : Status) (d : List Byte) : (respond s st d).c = s.c := rfl
@[simp] theorem respond_keyW (s : State) (st : Status) (d : List Byte) : (respond s st d).keyW = s.keyW := rfl
@[simp] theorem respond_resW (s : State) (st : Status) (d : List Byte) : (respond s st d).resW = s.resW := rfl
@[simp] theorem respond_ckW (s : State) (st : Status) (d : List Byte) : (respond s st d).ckW = s.ckW := rfl
@[simp] theorem respond_ikW (s : State) (st : Status) (d : List Byte) : (respond s st d).ikW = s.ikW := rfl
@[simp] theorem respond_macW (s : State) (st : Status) (d : List Byte) : (respond s st d).macW = s.macW := rfl
@[simp] theorem respond_nonceW (s : State) (st : Status) (d : List Byte) : (respond s st d).nonceW = s.nonceW := rfl
@[simp] theorem respond_sqnW (s : State) (st : Status) (d : List Byte) : (respond s st d).sqnW = s.sqnW := rfl
@[simp] theorem respond_akW (s : State) (st : Status) (d : List Byte) : (respond s st d).akW = s.akW := rfl
@[simp] theorem respond_lifecycle (s : State) (st : Status) (d : List Byte) : (respond s st d).lifecycle = s.lifecycle := rfl
@[simp] theorem respond_fault (s : State) (st : Status) (d : List Byte) : (respond s st d).fault = s.fault := rfl
@[simp] theorem respond_host (s : State) (st : Status) (d : List Byte) : (respond s st d).host = s.host := rfl
@[simp] theorem respond_responses (s : State) (st : Status) (d : List Byte) : (respond s st d).responses = s.responses ++ [mkResponse st d] := rfl

/-! ## Raising a fault -/

@[simp] theorem raise_op (s : State) (code : Status) : (raise s code).op = s.op := rfl
@[simp] theorem raise_opc (s : State) (code : Status) : (raise s code).opc = s.opc := rfl
@[simp] theorem raise_c (s : State) (code : Status) : (raise s code).c = s.c := rfl
@[simp] theorem raise_keyW (s : State) (code : Status) : (raise s code).keyW = s.keyW := rfl
@[simp] theorem raise_resW (s : State) (code : Status) : (raise s code).resW = s.resW := rfl
@[simp] theorem raise_ckW (s : State) (code : Status) : (raise s code).ckW = s.ckW := rfl
@[simp] theorem raise_ikW (s : State) (code : Status) : (raise s code).ikW = s.ikW := rfl
@[simp] theorem raise_macW (s : State) (code : Status) : (raise s code).macW = s.macW := rfl
@[simp] theorem raise_nonceW (s : State) (code : Status) : (raise s code).nonceW = s.nonceW := rfl
@[simp] theorem raise_sqnW (s : State) (code : Status) : (raise s code).sqnW = s.sqnW := rfl
@[simp] theorem raise_akW (s : State) (code : Status) : (raise s code).akW = s.akW := rfl
@[simp] theorem raise_lifecycle (s : State) (code : Status) : (raise s code).lifecycle = s.lifecycle := rfl
@[simp] theorem raise_fault (s : State) (code : Status) : (raise s code).fault = recordFault s.fault code := rfl
@[simp] theorem raise_host (s : State) (code : Status) : (raise s code).host = s.host := rfl
@[simp] theorem raise_responses (s : State) (code : Status) : (raise s code).responses = s.responses ++ [mkResponse code []] := rfl

/-! ## Reset -/

@[simp] theorem resetEngine_op (s : State) : (resetEngine s).op = State.reset.op := rfl
@[simp] theorem resetEngine_opc (s : State) : (resetEngine s).opc = State.reset.opc := rfl
@[simp] theorem resetEngine_c (s : State) : (resetEngine s).c = State.reset.c := rfl
@[simp] theorem resetEngine_keyW (s : State) : (resetEngine s).keyW = State.reset.keyW := rfl
@[simp] theorem resetEngine_resW (s : State) : (resetEngine s).resW = State.reset.resW := rfl
@[simp] theorem resetEngine_ckW (s : State) : (resetEngine s).ckW = State.reset.ckW := rfl
@[simp] theorem resetEngine_ikW (s : State) : (resetEngine s).ikW = State.reset.ikW := rfl
@[simp] theorem resetEngine_macW (s : State) : (resetEngine s).macW = State.reset.macW := rfl
@[simp] theorem resetEngine_nonceW (s : State) : (resetEngine s).nonceW = State.reset.nonceW := rfl
@[simp] theorem resetEngine_sqnW (s : State) : (resetEngine s).sqnW = State.reset.sqnW := rfl
@[simp] theorem resetEngine_akW (s : State) : (resetEngine s).akW = State.reset.akW := rfl
@[simp] theorem resetEngine_lifecycle (s : State) : (resetEngine s).lifecycle = State.reset.lifecycle := rfl
@[simp] theorem resetEngine_fault (s : State) : (resetEngine s).fault = State.reset.fault := rfl
@[simp] theorem resetEngine_host (s : State) : (resetEngine s).host = s.host := rfl
@[simp] theorem resetEngine_responses (s : State) : (resetEngine s).responses = s.responses := rfl

/-! ## A fresh context -/

@[simp] theorem freshContext_op (s : State) : (freshContext s).op = zeros 32 := rfl
@[simp] theorem freshContext_opc (s : State) : (freshContext s).opc = zeros 32 := rfl
@[simp] theorem freshContext_c (s : State) : (freshContext s).c = personalization := rfl
@[simp] theorem freshContext_keyW (s : State) : (freshContext s).keyW = 32 := rfl
@[simp] theorem freshContext_resW (s : State) : (freshContext s).resW = 8 := rfl
@[simp] theorem freshContext_ckW (s : State) : (freshContext s).ckW = 32 := rfl
@[simp] theorem freshContext_ikW (s : State) : (freshContext s).ikW = 32 := rfl
@[simp] theorem freshContext_macW (s : State) : (freshContext s).macW = 16 := rfl
@[simp] theorem freshContext_nonceW (s : State) : (freshContext s).nonceW = 16 := rfl
@[simp] theorem freshContext_sqnW (s : State) : (freshContext s).sqnW = 6 := rfl
@[simp] theorem freshContext_akW (s : State) : (freshContext s).akW = 6 := rfl
@[simp] theorem freshContext_lifecycle (s : State) : (freshContext s).lifecycle = .setup := rfl
@[simp] theorem freshContext_fault (s : State) : (freshContext s).fault = s.fault := rfl
@[simp] theorem freshContext_host (s : State) : (freshContext s).host = s.host := rfl
@[simp] theorem freshContext_responses (s : State) : (freshContext s).responses = s.responses := rfl

/-! ## The next input -/

@[simp] theorem withFetchWord_op (s : State) (n w : Nat) : (s.withFetchWord n w).op = s.op := rfl
@[simp] theorem withFetchWord_opc (s : State) (n w : Nat) : (s.withFetchWord n w).opc = s.opc := rfl
@[simp] theorem withFetchWord_c (s : State) (n w : Nat) : (s.withFetchWord n w).c = s.c := rfl
@[simp] theorem withFetchWord_keyW (s : State) (n w : Nat) : (s.withFetchWord n w).keyW = s.keyW := rfl
@[simp] theorem withFetchWord_resW (s : State) (n w : Nat) : (s.withFetchWord n w).resW = s.resW := rfl
@[simp] theorem withFetchWord_ckW (s : State) (n w : Nat) : (s.withFetchWord n w).ckW = s.ckW := rfl
@[simp] theorem withFetchWord_ikW (s : State) (n w : Nat) : (s.withFetchWord n w).ikW = s.ikW := rfl
@[simp] theorem withFetchWord_macW (s : State) (n w : Nat) : (s.withFetchWord n w).macW = s.macW := rfl
@[simp] theorem withFetchWord_nonceW (s : State) (n w : Nat) : (s.withFetchWord n w).nonceW = s.nonceW := rfl
@[simp] theorem withFetchWord_sqnW (s : State) (n w : Nat) : (s.withFetchWord n w).sqnW = s.sqnW := rfl
@[simp] theorem withFetchWord_akW (s : State) (n w : Nat) : (s.withFetchWord n w).akW = s.akW := rfl
@[simp] theorem withFetchWord_lifecycle (s : State) (n w : Nat) : (s.withFetchWord n w).lifecycle = s.lifecycle := rfl
@[simp] theorem withFetchWord_fault (s : State) (n w : Nat) : (s.withFetchWord n w).fault = s.fault := rfl
@[simp] theorem withFetchWord_host (s : State) (n w : Nat) : (s.withFetchWord n w).host = .command (descriptorOfBits n w) :: s.host := rfl
@[simp] theorem withFetchWord_responses (s : State) (n w : Nat) : (s.withFetchWord n w).responses = s.responses := rfl

/-! ## The inputs to come -/

@[simp] theorem withHost_op (s : State) (rest : List HostEvent) : (withHost s rest).op = s.op := rfl
@[simp] theorem withHost_opc (s : State) (rest : List HostEvent) : (withHost s rest).opc = s.opc := rfl
@[simp] theorem withHost_c (s : State) (rest : List HostEvent) : (withHost s rest).c = s.c := rfl
@[simp] theorem withHost_keyW (s : State) (rest : List HostEvent) : (withHost s rest).keyW = s.keyW := rfl
@[simp] theorem withHost_resW (s : State) (rest : List HostEvent) : (withHost s rest).resW = s.resW := rfl
@[simp] theorem withHost_ckW (s : State) (rest : List HostEvent) : (withHost s rest).ckW = s.ckW := rfl
@[simp] theorem withHost_ikW (s : State) (rest : List HostEvent) : (withHost s rest).ikW = s.ikW := rfl
@[simp] theorem withHost_macW (s : State) (rest : List HostEvent) : (withHost s rest).macW = s.macW := rfl
@[simp] theorem withHost_nonceW (s : State) (rest : List HostEvent) : (withHost s rest).nonceW = s.nonceW := rfl
@[simp] theorem withHost_sqnW (s : State) (rest : List HostEvent) : (withHost s rest).sqnW = s.sqnW := rfl
@[simp] theorem withHost_akW (s : State) (rest : List HostEvent) : (withHost s rest).akW = s.akW := rfl
@[simp] theorem withHost_lifecycle (s : State) (rest : List HostEvent) : (withHost s rest).lifecycle = s.lifecycle := rfl
@[simp] theorem withHost_fault (s : State) (rest : List HostEvent) : (withHost s rest).fault = s.fault := rfl
@[simp] theorem withHost_host (s : State) (rest : List HostEvent) : (withHost s rest).host = rest := rfl
@[simp] theorem withHost_responses (s : State) (rest : List HostEvent) : (withHost s rest).responses = s.responses := rfl

/-! ## A width register written -/

@[simp] theorem writeWidth_op (s : State) (w : WidthReg) (v : Byte) : (writeWidth s w v).op = s.op := by cases w <;> rfl
@[simp] theorem writeWidth_opc (s : State) (w : WidthReg) (v : Byte) : (writeWidth s w v).opc = s.opc := by cases w <;> rfl
@[simp] theorem writeWidth_c (s : State) (w : WidthReg) (v : Byte) : (writeWidth s w v).c = s.c := by cases w <;> rfl
@[simp] theorem writeWidth_keyW (s : State) (v : Byte) : (writeWidth s .keyW v).keyW = v := rfl
@[simp] theorem writeWidth_resW (s : State) (v : Byte) : (writeWidth s .resW v).resW = v := rfl
@[simp] theorem writeWidth_ckW (s : State) (v : Byte) : (writeWidth s .ckW v).ckW = v := rfl
@[simp] theorem writeWidth_ikW (s : State) (v : Byte) : (writeWidth s .ikW v).ikW = v := rfl
@[simp] theorem writeWidth_macW (s : State) (v : Byte) : (writeWidth s .macW v).macW = v := rfl
@[simp] theorem writeWidth_nonceW (s : State) (v : Byte) : (writeWidth s .nonceW v).nonceW = v := rfl
@[simp] theorem writeWidth_sqnW (s : State) (v : Byte) : (writeWidth s .sqnW v).sqnW = v := rfl
@[simp] theorem writeWidth_akW (s : State) (v : Byte) : (writeWidth s .akW v).akW = v := rfl
@[simp] theorem writeWidth_lifecycle (s : State) (w : WidthReg) (v : Byte) : (writeWidth s w v).lifecycle = s.lifecycle := by cases w <;> rfl
@[simp] theorem writeWidth_fault (s : State) (w : WidthReg) (v : Byte) : (writeWidth s w v).fault = s.fault := by cases w <;> rfl
@[simp] theorem writeWidth_host (s : State) (w : WidthReg) (v : Byte) : (writeWidth s w v).host = s.host := by cases w <;> rfl
@[simp] theorem writeWidth_responses (s : State) (w : WidthReg) (v : Byte) : (writeWidth s w v).responses = s.responses := by cases w <;> rfl

/-- A width register reads back what was written (10_state.md R32). -/
@[simp] theorem readWidth_writeWidth (s : State) (w : WidthReg) (v : Byte) : readWidth (writeWidth s w v) w = v := by
  cases w <;> rfl

/-- Writing one width register leaves the others. -/
theorem readWidth_writeWidth_ne (s : State) (w w' : WidthReg) (v : Byte) (h : w' ≠ w) :
    readWidth (writeWidth s w v) w' = readWidth s w' := by
  cases w <;> cases w' <;> first | rfl | exact absurd rfl h

end Sys2Proof.Machine
end

