-- ==== Sys2Proof/Laws/Exec.lean ====
section
/-! SUPPORT. Once for each shared operation, everything it can do; and the inversion lemmas of `exec` and `step` that follow. -/

namespace Sys2Proof.Machine

/-! ## Responses -/

@[simp] theorem mkResponse_status (st : Status) (d : List Byte) : (mkResponse st d).status = st := rfl

@[simp] theorem mkResponse_len (st : Status) (d : List Byte) : (mkResponse st d).len = BitVec.ofNat 8 d.length := rfl

@[simp] theorem mkResponse_data (st : Status) (d : List Byte) : (mkResponse st d).data = padRight 32 d := rfl

/-- A response is 34 bytes (30_encoding.md R76). -/
@[simp] theorem responseBytes_length (r : Response) : (responseBytes r).length = 34 := by simp [responseBytes]

/-- `FAULT` is sticky: a recorded code stays (10_state.md R42). -/
theorem recordFault_of_ne {old : Status} (h : old ≠ .ok) (new : Status) : recordFault old new = old := by
  simp [recordFault, h]

/-- The first code is recorded (10_state.md R42). -/
@[simp] theorem recordFault_ok (new : Status) : recordFault .ok new = new := rfl

/-! ## The suite's skeleton (43_suite.md R180) -/

/-- What a suite command returns fits a response. -/
theorem suiteOutput_length_le (A : Aes) (s : State) (idx : Fin 8) (metadata n : Nat) (o : SuiteOperands) :
    (suiteOutput A s idx metadata n o).length ≤ 32 := by
  unfold suiteOutput; split <;> simp

/-- With legal widths the output is the leading bytes of the core transform. -/
theorem suiteOutput_of_cfgOk {s : State} (h : CfgOk s) (A : Aes) (idx : Fin 8) (metadata n : Nat) (o : SuiteOperands) :
    suiteOutput A s idx metadata n o = (coreTransform A s idx metadata o).toList.take n := if_pos h

/-- A suite command answers with its output in `READY` and raises `ERR_STATE` elsewhere. -/
theorem suiteCommand_cases (P : Params) (idx : Fin 8) (metadata n : Nat) (o : SuiteOperands) (s : State) :
    (s.lifecycle = .ready ∧ suiteCommand P idx metadata n o s = respond s .ok (suiteOutput P.aes s idx metadata n o))
    ∨ (s.lifecycle ≠ .ready ∧ suiteCommand P idx metadata n o s = raise s .errState) := by
  unfold suiteCommand; split <;> simp_all

/-- `F1S` and `F1` answer in `READY` with `F1_HI` in range, raise `ERR_CONFIG` with it out of range, `ERR_STATE` elsewhere. -/
theorem macCommand_cases (P : Params) (idx : Fin 8) (o : SuiteOperands) (s : State) :
    (s.lifecycle = .ready ∧ F1HiOk P.widthAdj s
      ∧ macCommand P idx o s = respond s .ok (suiteOutput P.aes s idx (metaMac P.widthAdj s) s.macW.toNat o))
    ∨ (s.lifecycle = .ready ∧ ¬ F1HiOk P.widthAdj s ∧ macCommand P idx o s = raise s .errConfig)
    ∨ (s.lifecycle ≠ .ready ∧ macCommand P idx o s = raise s .errState) := by
  unfold macCommand
  by_cases h : s.lifecycle = .ready
  · by_cases hf : F1HiOk P.widthAdj s
    · left; exact ⟨h, hf, by rw [if_pos h, if_pos hf]⟩
    · right; left; exact ⟨h, hf, by rw [if_pos h, if_neg hf]⟩
  · right; right; exact ⟨h, by rw [if_neg h]⟩

/-! ## What a command that completes has done -/

/-- The registers a command leaves when it completes: `u` is the state it answers in. -/
def Effect (P : Params) (i : Instr) (s u : State) : Prop :=
  match i with
  | .f1s _ _ _ _ => u = s ∧ s.lifecycle = .ready
  | .f1 _ _ _ _ => u = s ∧ s.lifecycle = .ready
  | .f2 _ _ => u = s ∧ s.lifecycle = .ready
  | .f3 _ _ => u = s ∧ s.lifecycle = .ready
  | .f4 _ _ => u = s ∧ s.lifecycle = .ready
  | .f5 _ _ => u = s ∧ s.lifecycle = .ready
  | .f5s _ _ => u = s ∧ s.lifecycle = .ready
  | .f5ss _ _ _ => u = s ∧ s.lifecycle = .ready
  | .ctxinit => u = freshContext s
  | .wrctx reg data => s.lifecycle = .setup ∧ (regOf reg).bind (hostWrite s data) = some u
  | .rdctx _ => u = s
  | .deriveopc key =>
    s.lifecycle = .setup ∧ CfgOk s ∧ u = { s with opc := derivedOpc P.aes s key, lifecycle := .ready }
  | .encrypt _ _ => u = s

/-- Everything a host write can be: the whole of `OP`, or one width register. -/
theorem hostWrite_cases {s u : State} {reg : Byte} {data : Bytes 32}
    (h : (regOf reg).bind (hostWrite s data) = some u) :
    (regOf reg = some .op ∧ u = { s with op := data })
    ∨ ∃ w, regOf reg = some (.width w) ∧ u = writeWidth s w data[0] := by
  cases hr : regOf reg with
  | none => simp [hr] at h
  | some r => cases r <;> simp_all [hostWrite]

/-- What a register read returns fits a response. -/
theorem readReg_length_le (s : State) (r : Reg) : (readReg s r).length ≤ 32 := by
  cases r <;> simp [readReg]

/-- Everything a command can do, at any parameters: raise a fault, with no other effect, or take its effect and answer `OK`. -/
theorem execWith_cases (P : Params) (i : Instr) (s : State) :
    (∃ code, code ≠ .ok ∧ execWith P i s = .next (raise s code))
    ∨ ∃ u data, data.length ≤ 32 ∧ Effect P i s u ∧ execWith P i s = .next (respond u .ok data) := by
  have hs : ∀ (idx : Fin 8) (m n : Nat) (o : SuiteOperands),
      (∃ code, code ≠ .ok ∧ (.next (suiteCommand P idx m n o s) : Host.Outcome State Fault Refusal) = .next (raise s code))
      ∨ ∃ u data, data.length ≤ 32 ∧ (u = s ∧ s.lifecycle = .ready)
        ∧ (.next (suiteCommand P idx m n o s) : Host.Outcome State Fault Refusal) = .next (respond u .ok data) := by
    intro idx m n o
    rcases suiteCommand_cases P idx m n o s with ⟨hl, h⟩ | ⟨_, h⟩
    · exact .inr ⟨s, _, suiteOutput_length_le P.aes s idx m n o, ⟨rfl, hl⟩, by rw [h]⟩
    · exact .inl ⟨.errState, by decide, by rw [h]⟩
  have hm : ∀ (idx : Fin 8) (o : SuiteOperands),
      (∃ code, code ≠ .ok ∧ (.next (macCommand P idx o s) : Host.Outcome State Fault Refusal) = .next (raise s code))
      ∨ ∃ u data, data.length ≤ 32 ∧ (u = s ∧ s.lifecycle = .ready)
        ∧ (.next (macCommand P idx o s) : Host.Outcome State Fault Refusal) = .next (respond u .ok data) := by
    intro idx o
    rcases macCommand_cases P idx o s with ⟨hl, _, h⟩ | ⟨_, _, h⟩ | ⟨_, h⟩
    · exact .inr ⟨s, _, suiteOutput_length_le P.aes s idx _ _ o, ⟨rfl, hl⟩, by rw [h]⟩
    · exact .inl ⟨.errConfig, by decide, by rw [h]⟩
    · exact .inl ⟨.errState, by decide, by rw [h]⟩
  cases i with
  | f1s key rand amf sqn => exact hm _ _
  | f1 key rand amf sqn => exact hm _ _
  | f2 key rand => exact hs _ _ _ _
  | f3 key rand => exact hs _ _ _ _
  | f4 key rand => exact hs _ _ _ _
  | f5 key rand => exact hs _ _ _ _
  | f5s key rand => exact hs _ _ _ _
  | f5ss key rand macs => exact hs _ _ _ _
  | ctxinit => exact .inr ⟨_, [], by simp, rfl, rfl⟩
  | wrctx reg data =>
    simp only [execWith, execWrctx, Effect]
    cases h : (regOf reg).bind (hostWrite s data) with
    | none => exact .inl ⟨.errReg, by decide, rfl⟩
    | some u =>
      by_cases hl : s.lifecycle = .setup
      · exact .inr ⟨u, [], by simp, ⟨hl, rfl⟩, by simp [hl]⟩
      · exact .inl ⟨.errState, by decide, by simp [hl]⟩
  | rdctx reg =>
    simp only [execWith, execRdctx, Effect]
    cases h : regOf reg with
    | none => exact .inl ⟨.errReg, by decide, rfl⟩
    | some r => exact .inr ⟨s, readReg s r, readReg_length_le s r, rfl, rfl⟩
  | deriveopc key =>
    simp only [execWith, deriveopcWith, Effect]
    by_cases hl : s.lifecycle = .setup
    · by_cases hc : CfgOk s
      · exact .inr ⟨_, [], by simp, ⟨hl, hc, rfl⟩, by rw [if_pos hl, if_pos hc]⟩
      · exact .inl ⟨.errConfig, by decide, by rw [if_pos hl, if_neg hc]⟩
    · exact .inl ⟨.errState, by decide, by rw [if_neg hl]⟩
  | encrypt key block => exact .inr ⟨s, _, by simp, rfl, rfl⟩

/-- The engine's commands are those of the machine at the engine's parameters. -/
theorem exec_eq_execWith : exec = execWith engineParams := by
  funext i s
  cases i <;> rfl

/-- The same for its step. -/
theorem step_eq_stepWith : step = stepWith engineParams := by
  funext s
  rw [step, stepWith, exec_eq_execWith]

/-- Everything a command of the engine can do. -/
theorem exec_cases (i : Instr) (s : State) :
    (∃ code, code ≠ .ok ∧ exec i s = .next (raise s code))
    ∨ ∃ u data, data.length ≤ 32 ∧ Effect engineParams i s u ∧ exec i s = .next (respond u .ok data) := by
  rw [exec_eq_execWith]
  exact execWith_cases engineParams i s

/-! ## Steps -/

/-- With nothing handed over an engine idles, whatever its commands do. -/
theorem stepBy_idle {run : Instr → State → Host.Outcome State Fault Refusal} {s : State} (h : s.host = []) :
    stepBy run s = .next s := by simp [stepBy, nextInput, h]

/-- A reset input resets. -/
theorem stepBy_reset {run : Instr → State → Host.Outcome State Fault Refusal} {s : State} {rest : List HostEvent}
    (h : s.host = .reset :: rest) : stepBy run s = .next (resetEngine (withHost s rest)) := by simp [stepBy, nextInput, h]

/-- A descriptor is decoded and executed, or answered with its decode fault. -/
theorem stepBy_command {run : Instr → State → Host.Outcome State Fault Refusal} {s : State} {d : List Byte}
    {rest : List HostEvent} (h : s.host = .command d :: rest) :
    stepBy run s = match decode d with
      | .error e => .next (raise (withHost s rest) (decodeStatus e))
      | .ok i => run i (withHost s rest) := by
  cases hd : decode d <;> simp [stepBy, nextInput, h, hd]

theorem step_idle {s : State} (h : s.host = []) : step s = .next s := stepBy_idle h

theorem step_reset {s : State} {rest : List HostEvent} (h : s.host = .reset :: rest) :
    step s = .next (resetEngine (withHost s rest)) := stepBy_reset h

theorem step_command {s : State} {d : List Byte} {rest : List HostEvent} (h : s.host = .command d :: rest) :
    step s = match decode d with
      | .error e => .next (raise (withHost s rest) (decodeStatus e))
      | .ok i => exec i (withHost s rest) := stepBy_command h

end Sys2Proof.Machine
end

