-- ==== Sys2Proof/Laws/PerInstr.lean ====
section
/-! SUPPORT. Statements about every command as syntax, one lemma per constructor: its descriptor is a well-formed one (30_encoding.md
R70, R71, R74), of the length the decoder requires. -/

namespace Sys2Proof.Laws.WellFormedDescriptor

/-- The descriptor of the command is well-formed, starts with an opcode of the command's own mnemonic, and has its length. -/
def Statement (i : Instr) : Prop :=
  descriptorWellFormed (encode i) = true
  ∧ (encode i).head?.bind mnemonicOf = some i.mnemonic
  ∧ (encode i).length = requiredLength i.mnemonic

theorem f1s (key : Bytes 32) (rand : Bytes 16) (amf : Bytes 2) (sqn : Bytes 12) : Statement (.f1s key rand amf sqn) := by
  simp [Statement, encode, descriptorWellFormed, opcodeRow, opcodeMap, mnemonicOf, Instr.mnemonic, requiredLength, Format.length]
theorem f1 (key : Bytes 32) (rand : Bytes 16) (amf : Bytes 2) (sqn : Bytes 12) : Statement (.f1 key rand amf sqn) := by
  simp [Statement, encode, descriptorWellFormed, opcodeRow, opcodeMap, mnemonicOf, Instr.mnemonic, requiredLength, Format.length]
theorem f2 (key : Bytes 32) (rand : Bytes 16) : Statement (.f2 key rand) := by
  simp [Statement, encode, descriptorWellFormed, opcodeRow, opcodeMap, mnemonicOf, Instr.mnemonic, requiredLength, Format.length]
theorem f3 (key : Bytes 32) (rand : Bytes 16) : Statement (.f3 key rand) := by
  simp [Statement, encode, descriptorWellFormed, opcodeRow, opcodeMap, mnemonicOf, Instr.mnemonic, requiredLength, Format.length]
theorem f4 (key : Bytes 32) (rand : Bytes 16) : Statement (.f4 key rand) := by
  simp [Statement, encode, descriptorWellFormed, opcodeRow, opcodeMap, mnemonicOf, Instr.mnemonic, requiredLength, Format.length]
theorem f5 (key : Bytes 32) (rand : Bytes 16) : Statement (.f5 key rand) := by
  simp [Statement, encode, descriptorWellFormed, opcodeRow, opcodeMap, mnemonicOf, Instr.mnemonic, requiredLength, Format.length]
theorem f5s (key : Bytes 32) (rand : Bytes 16) : Statement (.f5s key rand) := by
  simp [Statement, encode, descriptorWellFormed, opcodeRow, opcodeMap, mnemonicOf, Instr.mnemonic, requiredLength, Format.length]
theorem f5ss (key : Bytes 32) (rand : Bytes 16) (macs : Bytes 32) : Statement (.f5ss key rand macs) := by
  simp [Statement, encode, descriptorWellFormed, opcodeRow, opcodeMap, mnemonicOf, Instr.mnemonic, requiredLength, Format.length]
theorem ctxinit : Statement .ctxinit := by
  simp [Statement, encode, descriptorWellFormed, opcodeRow, opcodeMap, mnemonicOf, Instr.mnemonic, requiredLength, Format.length]
theorem wrctx (reg : Byte) (data : Bytes 32) : Statement (.wrctx reg data) := by
  simp [Statement, encode, descriptorWellFormed, opcodeRow, opcodeMap, mnemonicOf, Instr.mnemonic, requiredLength, Format.length]
theorem rdctx (reg : Byte) : Statement (.rdctx reg) := by
  simp [Statement, encode, descriptorWellFormed, opcodeRow, opcodeMap, mnemonicOf, Instr.mnemonic, requiredLength, Format.length]
theorem deriveopc (key : Bytes 32) : Statement (.deriveopc key) := by
  simp [Statement, encode, descriptorWellFormed, opcodeRow, opcodeMap, mnemonicOf, Instr.mnemonic, requiredLength, Format.length]
theorem encrypt (key : Bytes 32) (block : Bytes 32) : Statement (.encrypt key block) := by
  simp [Statement, encode, descriptorWellFormed, opcodeRow, opcodeMap, mnemonicOf, Instr.mnemonic, requiredLength, Format.length]

end Sys2Proof.Laws.WellFormedDescriptor
end

