-- ==== Sys2Proof/Laws/Safety.lean ====
section
/-! SUPPORT. The engine's operations in the terms claims are made in. -/

namespace Sys2Proof.Machine

/-- Raising a fault is the state claims call `afterFault`. -/
theorem raise_eq_afterFault (s : State) (code : Status) : raise s code = afterFault s code := by
  simp only [raise, afterFault, respond, recordFault, mkResponse, padRight_nil]
  rfl

/-- Answering `OK` is the state claims call `afterOk`. -/
theorem respond_eq_afterOk (s : State) (data : List Byte) : respond s .ok data = afterOk s data := by
  simp only [afterOk, respond, mkResponse, padRight, field, Nat.zero_add]

@[simp] theorem afterOk_opc (s : State) (data : List Byte) : (afterOk s data).opc = s.opc := rfl

@[simp] theorem afterOk_responses (s : State) (data : List Byte) :
    (afterOk s data).responses = s.responses ++ [mkResponse .ok data] := by rw [← respond_eq_afterOk]; rfl

@[simp] theorem afterFault_responses (s : State) (code : Status) :
    (afterFault s code).responses = s.responses ++ [mkResponse code []] := by rw [← raise_eq_afterFault]; rfl

/-- A state has its own context. -/
theorem SameContext.refl (s : State) : SameContext s s := by simp [SameContext]

/-- The invariant speaks of the context only. -/
theorem EngineInv.of_sameContext {s t : State} (h : SameContext s t) (hs : EngineInv s) : EngineInv t := by
  obtain ⟨h1, h2, h3, h4, h5, h6, h7, h8, h9, h10, h11, h12⟩ := h
  simp only [EngineInv, ContextZero, CfgOk, h1, h2, h3, h4, h5, h6, h7, h8, h9, h10, h11, h12] at *
  exact hs

/-- A reading command that completes leaves the state it found. -/
theorem effect_of_isReadOnly {P : Params} {i : Instr} {s u : State} (hi : isReadOnly i = true) (h : Effect P i s u) : u = s := by
  cases i <;> simp_all [isReadOnly, isSuite, Effect]

/-- No command touches the inputs still to come or the responses already delivered, before it answers. -/
theorem effect_host_responses {P : Params} {i : Instr} {s u : State} (h : Effect P i s u) :
    u.host = s.host ∧ u.responses = s.responses ∧ u.fault = s.fault := by
  cases i with
  | wrctx reg data =>
    rcases hostWrite_cases h.2 with ⟨_, rfl⟩ | ⟨w, _, rfl⟩
    · exact ⟨rfl, rfl, rfl⟩
    · simp
  | ctxinit => rw [show u = freshContext s from h]; simp
  | deriveopc key => obtain ⟨_, _, rfl⟩ := h; exact ⟨rfl, rfl, rfl⟩
  | rdctx reg => rw [show u = s from h]; simp
  | encrypt key block => rw [show u = s from h]; simp
  | _ => rw [h.1]; simp

/-- Two histories that differ by one response: the first fault of the longer one (10_state.md R42). -/
theorem firstFault_append (rs : List Response) (r : Response) :
    firstFault (rs ++ [r]) = recordFault (firstFault rs) r.status := by
  induction rs with
  | nil => by_cases h : r.status = .ok <;> simp [firstFault, h]
  | cons a rs ih =>
    by_cases h : a.status = .ok
    · simp [firstFault, h, ih]
    · simp [firstFault, h, recordFault]

end Sys2Proof.Machine
end

