-- ==== Sys2Proof/Tests/Slice0.lean ====
section
/-! SUPPORT. Tests against the vectors of 95_test_vectors.md and the examples of the rules, and for every statement with hypotheses
a witness that meets them. Expected values are the spec's. -/

namespace Sys2Proof.Tests

open Sys2Proof.Machine

-- One theorem after the other: each has a deep stack of its own.
set_option Elab.async false

/-! ## Helpers -/

/-- The `n` bytes written as one hexadecimal numeral, first byte first. -/
def hex (n w : Nat) : Bytes n := Vector.ofFn fun i => BitVec.ofNat 8 (w >>> (8 * (n - 1 - i.val)))

/-- The same as a list. -/
def hexList (n w : Nat) : List Byte := (hex n w).toList

/-- The last response of a step that answers a next state: `STATUS LEN DATA[0..LEN-1]`. -/
def answer : Host.Outcome State Fault Refusal → List Byte
  | .next t =>
    match t.responses.getLast? with
    | some r => r.status.code :: r.len :: r.data.toList.take r.len.toNat
    | none => []
  | .fault _ => []
  | .refused _ => []

/-- The state an outcome leads to. -/
def after : Host.Outcome State Fault Refusal → State
  | .next t => t
  | .fault _ => State.reset
  | .refused _ => State.reset

/-- A state that waits for one descriptor. -/
def handed (s : State) (d : List Byte) : State := { s with host := [.command d] }

/-- After reset and `CTXINIT`. -/
def inSetup : State := freshContext State.reset

/-- The inputs of the vectors. -/
def keyK : Bytes 32 := hex 32 0x000102030405060708090a0b0c0d0e0f101112131415161718191a1b1c1d1e1f
def opV : Bytes 32 := hex 32 0xfffefdfcfbfaf9f8f7f6f5f4f3f2f1f0efeeedecebeae9e8e7e6e5e4e3e2e1e0
def opcV : Bytes 32 := hex 32 0x21e0f9e7e06cf7917fc49d9f7a1fe34c18167ccdceed3566d6d00c46d81d479c
def randV : Bytes 16 := hex 16 0x23553cbe9637a89d218ae64dae47bf35
def amfV : Bytes 2 := hex 2 0xb9b9
def sqnV : Bytes 12 := hex 12 0xff9bb4d0b607000000000000
def macsV : Bytes 32 := hex 32 0x3ceb4834e63c36de7c32ffee700c154900000000000000000000000000000000

/-- The context of V-S1: `READY` with the default widths. -/
def inReady : State := { inSetup with op := opV, opc := opcV, lifecycle := .ready }

/-- A context in which every register differs from what `CTXINIT` leaves. -/
def scrambled : State :=
  { State.reset with
    op := keyK, opc := keyK, c := Vector.ofFn fun _ => randV
    keyW := 1, resW := 1, ckW := 1, ikW := 1, macW := 1, nonceW := 2, sqnW := 1, akW := 5 }

/-! ## Well-formed descriptors (30_encoding.md R70, R71, R77) -/

theorem test_wellformed_empty : descriptorWellFormed [] = false := by decide

theorem test_wellformed_reserved : descriptorWellFormed [0x08] = false := by decide

theorem test_wellformed_too_long : descriptorWellFormed [0x10, 0x00] = false := by decide

theorem test_wellformed_too_short : descriptorWellFormed [0x12] = false := by decide

theorem test_wellformed_accepts : descriptorWellFormed [0x10] = true ∧ descriptorWellFormed [0x12, 0x05] = true := by decide

/-! ## Decoding: descriptors written out from R71 and R74, as in the programs of 95_test_vectors.md -/

theorem test_decode_f1s :
    decode (hexList 63 0x00000102030405060708090a0b0c0d0e0f101112131415161718191a1b1c1d1e1f23553cbe9637a89d218ae64dae47bf35b9b9ff9bb4d0b607000000000000)
      = .ok (.f1s keyK randV amfV sqnV) := by decide +kernel

theorem test_decode_f1 :
    decode (hexList 63 0x01000102030405060708090a0b0c0d0e0f101112131415161718191a1b1c1d1e1f23553cbe9637a89d218ae64dae47bf35b9b9ff9bb4d0b607000000000000)
      = .ok (.f1 keyK randV amfV sqnV) := by decide +kernel

theorem test_decode_f2 :
    decode (hexList 49 0x02000102030405060708090a0b0c0d0e0f101112131415161718191a1b1c1d1e1f23553cbe9637a89d218ae64dae47bf35)
      = .ok (.f2 keyK randV) := by decide +kernel

theorem test_decode_f3 :
    decode (hexList 49 0x03000102030405060708090a0b0c0d0e0f101112131415161718191a1b1c1d1e1f23553cbe9637a89d218ae64dae47bf35)
      = .ok (.f3 keyK randV) := by decide +kernel

theorem test_decode_f4 :
    decode (hexList 49 0x04000102030405060708090a0b0c0d0e0f101112131415161718191a1b1c1d1e1f23553cbe9637a89d218ae64dae47bf35)
      = .ok (.f4 keyK randV) := by decide +kernel

theorem test_decode_f5 :
    decode (hexList 49 0x05000102030405060708090a0b0c0d0e0f101112131415161718191a1b1c1d1e1f23553cbe9637a89d218ae64dae47bf35)
      = .ok (.f5 keyK randV) := by decide +kernel

theorem test_decode_f5s :
    decode (hexList 49 0x06000102030405060708090a0b0c0d0e0f101112131415161718191a1b1c1d1e1f23553cbe9637a89d218ae64dae47bf35)
      = .ok (.f5s keyK randV) := by decide +kernel

theorem test_decode_f5ss :
    decode (hexList 81 0x07000102030405060708090a0b0c0d0e0f101112131415161718191a1b1c1d1e1f23553cbe9637a89d218ae64dae47bf353ceb4834e63c36de7c32ffee700c154900000000000000000000000000000000)
      = .ok (.f5ss keyK randV macsV) := by decide +kernel

theorem test_decode_ctxinit :
    decode (hexList 1 0x10)
      = .ok (.ctxinit) := by decide +kernel

theorem test_decode_wrctx :
    decode (hexList 34 0x1100fffefdfcfbfaf9f8f7f6f5f4f3f2f1f0efeeedecebeae9e8e7e6e5e4e3e2e1e0)
      = .ok (.wrctx 0x00 opV) := by decide +kernel

theorem test_decode_rdctx :
    decode (hexList 2 0x1221)
      = .ok (.rdctx 0x21) := by decide +kernel

theorem test_decode_deriveopc :
    decode (hexList 33 0x13000102030405060708090a0b0c0d0e0f101112131415161718191a1b1c1d1e1f)
      = .ok (.deriveopc keyK) := by decide +kernel

theorem test_decode_encrypt :
    decode (hexList 65 0x20000102030405060708090a0b0c0d0e0f101112131415161718191a1b1c1d1e1f00112233445566778899aabbccddeeffffeeddccbbaa99887766554433221100)
      = .ok (.encrypt keyK (hex 32 0x00112233445566778899aabbccddeeffffeeddccbbaa99887766554433221100)) := by decide +kernel

theorem test_decode_empty : decode [] = .error .errLength := by decide

theorem test_decode_reserved_before_length : decode [0x14, 0x00] = .error .errOpcode ∧ decode [0xff] = .error .errOpcode := by
  decide

theorem test_decode_last_byte_missing : decode (hexList 48 0x02000102030405060708090a0b0c0d0e0f101112131415161718191a1b1c1d1e1f23553cbe9637a89d218ae64dae47bf) = .error .errLength := by decide +kernel

/-! ## A descriptor handed over as a number -/

theorem test_table_word_rdctx : decodeTableWord 16 0x2112 = some (.rdctx 0x21) := by decide

theorem test_table_word_short : decodeTableWord 8 0x13 = some (.deriveopc (zeros 32)) := by decide +kernel

theorem test_table_word_reserved : decodeTableWord 8 0x08 = none := by decide

theorem test_fetch_word_runs_ctxinit :
    (after (step (State.reset.withFetchWord 8 0x10))).lifecycle = .setup := by decide +kernel

theorem test_fetch_word_runs_rdctx : answer (step (State.reset.withFetchWord 16 0x2012)) = [0x00, 0x01, 0x00] := by
  decide +kernel

/-! ## The AES primitive -/

/-- V-A3. -/
theorem test_sbox : sbox 0x00 = 0x63 ∧ sbox 0x01 = 0x7c ∧ sbox 0x53 = 0xed ∧ sbox 0xff = 0x16 := by decide

/-- V-A4: the layers of one lane of one round. -/
theorem test_sub_bytes :
    subBytes (hex 16 0x00ff8f9f40504f5f8090e01fc0d0cfdf) = hex 16 0x631673db095384cfcd60e1c0ba708a9e := by decide +kernel

theorem test_shift_rows :
    shiftRows (hex 16 0x631673db095384cfcd60e1c0ba708a9e) = hex 16 0x6353e19e09608adbcd7073cfba1684c0 := by decide +kernel

theorem test_mix_columns :
    mixColumns (hex 16 0x6353e19e09608adbcd7073cfba1684c0) = hex 16 0x4c635030e397105cad7711ca11c1e4dc := by decide +kernel

theorem test_add_round_key :
    addRoundKey (hex 16 0x4c635030e397105cad7711ca11c1e4dc) (hex 16 0xa573c29fa176c498a97fce93a572c09c)
      = hex 16 0xe91092af42e1d4c40408df59b4b32440 := by decide +kernel

/-- V-A2. -/
theorem test_schedule_fips :
    keyWord (hex 32 0x603deb1015ca71be2b73aef0857d77811f352c073b6108d72d9810a30914dff4) 8 = hex 4 0x9ba35411 := by
  decide +kernel

/-- V-K1: the last word AES-256 defines, the first of the continuation, and the last of all. -/
theorem test_schedule_continued :
    keyWord keyK 59 = hex 4 0x6d68de36 ∧ keyWord keyK 60 = hex 4 0x721f7b9c ∧ keyWord keyK 119 = hex 4 0x5dd02276 := by
  decide +kernel

/-! ## The cipher -/

/-- V-K1: the round keys of round 1. -/
theorem test_round_keys :
    roundKeyA fips197 keyK 1 = hex 16 0xa573c29fa176c498a97fce93a572c09c
    ∧ roundKeyB fips197 keyK 1 = hex 16 0x1651a8cd0244beda1a5da4c10640bade := by decide +kernel

/-- V-P1. -/
theorem test_permute :
    permute keyK = hex 32 0x0011161704051a1b08090e1f0c0d12131001060714150a0b18191e0f1c1d0203 := by decide +kernel

/-- V-E2, whitening and rounds 1 and 2. -/
theorem test_whitening :
    whiten fips197 keyK (hex 32 0x00112233445566778899aabbccddeeffffeeddccbbaa99887766554433221100)
      = hex 32 0x00102030405060708090a0b0c0d0e0f0efffcfdfafbf8f9f6f7f4f5f2f3f0f1f := by decide +kernel

theorem test_middle_round :
    middleRound fips197 keyK 1 (hex 32 0x00102030405060708090a0b0c0d0e0f0efffcfdfafbf8f9f6f7f4f5f2f3f0f1f)
      = hex 32 0xe91092af42e1d4c40408df59b4b32440d9009fc17b119396f993f052056d31c8 := by decide +kernel

theorem test_last_round :
    lastRound fips197 keyK (hex 32 0xb0e9b413919e04320f5829515f848a867d527f62a9e2d4c385de2f0b8023eb66)
      = hex 32 0x410c9914a4dd2ef4827c58362c13ae551782b82e62ade538d9d3dc1390ce8732 := by decide +kernel

/-- V-E2 through `ENCRYPT`, in `UNINIT`. -/
theorem test_encrypt :
    answer (exec (.encrypt keyK (hex 32 0x00112233445566778899aabbccddeeffffeeddccbbaa99887766554433221100)) State.reset)
      = 0x00 :: 0x20 :: hexList 32 0x410c9914a4dd2ef4827c58362c13ae551782b82e62ade538d9d3dc1390ce8732 := by decide +kernel

/-! ## The context commands -/

/-- V-C1. -/
theorem test_ctxinit :
    answer (exec .ctxinit State.reset) = [0x00, 0x00]
    ∧ answer (exec (.rdctx 0x0f) (after (exec .ctxinit State.reset)))
        = 0x00 :: 0x10 :: hexList 16 0x00000000000000000000000000000040
    ∧ answer (exec (.rdctx 0x09) (after (exec .ctxinit State.reset)))
        = 0x00 :: 0x10 :: hexList 16 0x00000000000000000000000000000001
    ∧ (List.map (fun n => answer (exec (.rdctx n) (after (exec .ctxinit State.reset))))
        [0x10, 0x11, 0x12, 0x13, 0x14, 0x15, 0x16, 0x17])
        = [[0, 1, 0x20], [0, 1, 0x08], [0, 1, 0x20], [0, 1, 0x20], [0, 1, 0x10], [0, 1, 0x10], [0, 1, 0x06], [0, 1, 0x06]] := by
  decide +kernel

/-- V-C1, before the `CTXINIT`. -/
theorem test_rdctx_uninit :
    answer (exec (.rdctx 0x0f) State.reset) = 0x00 :: 0x10 :: List.replicate 16 0x00
    ∧ answer (exec (.rdctx 0x20) State.reset) = [0x00, 0x01, 0x00] := by decide +kernel

/-- P1: `RDCTX OPC` in the context of V-S1. -/
theorem test_rdctx_opc : answer (exec (.rdctx 0x01) inReady) = 0x00 :: 0x20 :: hexList 32 0x21e0f9e7e06cf7917fc49d9f7a1fe34c18167ccdceed3566d6d00c46d81d479c := by decide +kernel

/-- V-C2: an illegal width is accepted, reads back, and is refused by `DERIVEOPC`. -/
theorem test_wrctx_illegal_width :
    answer (exec (.wrctx 0x15 (hex 32 0xff5a5a5a5a5a5a5a5a5a5a5a5a5a5a5a5a5a5a5a5a5a5a5a5a5a5a5a5a5a5a5a)) inSetup) = [0x00, 0x00]
    ∧ answer (exec (.rdctx 0x15) (after (exec (.wrctx 0x15 (hex 32 0xff5a5a5a5a5a5a5a5a5a5a5a5a5a5a5a5a5a5a5a5a5a5a5a5a5a5a5a5a5a5a5a)) inSetup)))
        = [0x00, 0x01, 0xff]
    ∧ answer (exec (.deriveopc keyK) { inSetup with nonceW := 0xff }) = [0x05, 0x00] := by decide +kernel

/-- V-S1: the vector `V`, and the padded key of V-S2. -/
theorem test_domain_vector :
    domainVector inSetup = hex 32 0x014d494c454e414745322e300000000000000000000000000000000000000000
    ∧ padKey { inSetup with keyW := 16 } keyK = hex 32 0x000102030405060708090a0b0c0d0e0f00000000000000000000000000000000 := by
  decide +kernel

/-- V-F3: the bounds of `CFG_OK`. -/
theorem test_cfg_ok_bounds :
    [0, 1, 32, 33].map (fun v => decide (CfgOk { inSetup with keyW := v })) = [false, true, true, false]
    ∧ [0, 1, 32, 33].map (fun v => decide (CfgOk { inSetup with macW := v })) = [false, true, true, false]
    ∧ [1, 2, 16, 17].map (fun v => decide (CfgOk { inSetup with nonceW := v })) = [false, true, true, false]
    ∧ [0, 1, 12, 13].map (fun v => decide (CfgOk { inSetup with sqnW := v })) = [false, true, true, false]
    ∧ [4, 5, 12, 13].map (fun v => decide (CfgOk { inSetup with akW := v })) = [false, true, true, false] := by decide +kernel

/-! ## The suite -/

/-- V-S1: the input-mixing blocks of the eight functions (`WIDTH_ADJ = 2` for f1s and f1). -/
theorem test_in_f1s :
    inBlock inReady 0 (metaMac 2 inReady) ⟨keyK, randV, some amfV, some sqnV, none⟩
      = hex 32 0x0f6fb9b9ff9bb4d0b60700000000000000000000000000000000000000000000 := by decide +kernel

theorem test_in_f1 :
    inBlock inReady 1 (metaMac 2 inReady) ⟨keyK, randV, some amfV, some sqnV, none⟩
      = hex 32 0x2f6fb9b9ff9bb4d0b60700000000000000000000000000000000000000000001 := by decide +kernel

theorem test_in_f2 :
    inBlock inReady 2 (metaF2 inReady) ⟨keyK, randV, none, none, none⟩ = hex 32 0x4f07000000000000000000000000000000000000000000000000000000000002 := by decide +kernel

theorem test_in_f3 :
    inBlock inReady 3 (metaF3 inReady) ⟨keyK, randV, none, none, none⟩ = hex 32 0x6f1f000000000000000000000000000000000000000000000000000000000004 := by decide +kernel

theorem test_in_f4 :
    inBlock inReady 4 (metaF4 inReady) ⟨keyK, randV, none, none, none⟩ = hex 32 0x8f1f000000000000000000000000000000000000000000000000000000000008 := by decide +kernel

theorem test_in_f5 :
    inBlock inReady 5 (metaF5 inReady) ⟨keyK, randV, none, none, none⟩ = hex 32 0xaf01000000000000000000000000000000000000000000000000000000000010 := by decide +kernel

theorem test_in_f5s :
    inBlock inReady 6 (metaF5s inReady) ⟨keyK, randV, none, none, none⟩ = hex 32 0xcf01000000000000000000000000000000000000000000000000000000000020 := by decide +kernel

theorem test_in_f5ss :
    inBlock inReady 7 (metaF5ss inReady) ⟨keyK, randV, none, none, some macsV⟩
      = hex 32 0xef793ceb4834e63c36de7c32ffee700c15490000000000000000000000000040 := by decide +kernel

/-- V-S5: the overlay clamped to 30 bytes meets the last byte of the constant. -/
theorem test_in_f5ss_widest :
    inBlock { inReady with macW := 32, sqnW := 12, akW := 12, nonceW := 10 } 7
        (metaF5ss { inReady with macW := 32, sqnW := 12, akW := 12, nonceW := 10 })
        ⟨keyK, randV, none, none, some (hex 32 0x318299eca68f042613a78e516e61f587019b27211a531e8fb2e495105b8406c1)⟩
      = hex 32 0xe9ff318299eca68f042613a78e516e61f587019b27211a531e8fb2e495105bc4 := by decide +kernel

/-- V-S8. -/
theorem test_byte0_odd_nonce :
    byte0 { inReady with nonceW := 14, keyW := 16 } 2 = 0x4c ∧ byte0 { inReady with nonceW := 14 } 2 = 0x4d
    ∧ byte0 { inReady with nonceW := 15, keyW := 16 } 2 = 0x4d ∧ byte0 { inReady with nonceW := 15 } 2 = 0x4d
    ∧ byte0 { inReady with nonceW := 16, keyW := 16 } 2 = 0x4e ∧ byte0 { inReady with nonceW := 16 } 2 = 0x4f := by decide

/-- V-S1: `OPC xor (RAND ‖ 0^16)`. -/
theorem test_masked_nonce :
    xorBytes inReady.opc (nonceBlock inReady randV)
      = hex 32 0x02b5c559765b5f0c5e4e7bd2d4585c7918167ccdceed3566d6d00c46d81d479c := by decide +kernel

/-- V-S1, `F2` from end to end. -/
theorem test_f2 : answer (exec (.f2 keyK randV) inReady) = 0x00 :: 0x08 :: hexList 8 0x5d4a3e32c7f5bd52 := by decide +kernel

/-- V-F4: the ends of the ranges of `NONCE_W` for `WIDTH_ADJ` 1, 2 and 3. -/
theorem test_f1_hi_range :
    (F1HiOk 1 { inReady with nonceW := 5 } ∧ F1HiOk 1 { inReady with nonceW := 12 } ∧ ¬ F1HiOk 1 { inReady with nonceW := 4 }
      ∧ ¬ F1HiOk 1 { inReady with nonceW := 13 })
    ∧ (F1HiOk 2 { inReady with nonceW := 10 } ∧ F1HiOk 2 inReady ∧ ¬ F1HiOk 2 { inReady with nonceW := 9 })
    ∧ (F1HiOk 3 { inReady with nonceW := 15 } ∧ F1HiOk 3 inReady ∧ ¬ F1HiOk 3 { inReady with nonceW := 14 }) := by decide

/-- V-S1c: `WIDTH_ADJ = 1` is refused in the default context. -/
theorem test_mac_refused :
    (macCommand ⟨fips197, 1⟩ 1 ⟨keyK, randV, some amfV, some sqnV, none⟩ inReady).fault = .errConfig := by decide +kernel

/-! ## The machine at given parameters -/

/-- V-S1, `F1` from end to end at `WIDTH_ADJ = 2`. -/
theorem test_f1_at_two :
    answer (execWith ⟨fips197, 2⟩ (.f1 keyK randV amfV sqnV) inReady) = 0x00 :: 0x10 :: hexList 16 0x55739b56090999c957834e077415eace := by
  decide +kernel

/-- V-S1c: `F1S` at `WIDTH_ADJ = 1`. -/
theorem test_f1s_at_one : answer (execWith ⟨fips197, 1⟩ (.f1s keyK randV amfV sqnV) inReady) = [0x05, 0x00] := by decide +kernel

/-! ## Faults (V-F1, V-F2, V-F5) -/

theorem test_fault_empty : answer (step (handed State.reset [])) = [0x02, 0x00] := by decide +kernel

theorem test_fault_reserved :
    answer (step (handed State.reset [0x08])) = [0x01, 0x00] ∧ (after (step (handed State.reset [0x08]))).fault = .errOpcode := by
  decide +kernel

theorem test_fault_register_before_lifecycle :
    answer (step (handed State.reset (0x11 :: 0x01 :: List.replicate 32 0xaa))) = [0x03, 0x00]
    ∧ answer (step (handed inReady (0x11 :: 0x20 :: List.replicate 32 0xaa))) = [0x03, 0x00]
    ∧ answer (exec (.rdctx 0x05) State.reset) = [0x03, 0x00] := by decide +kernel

theorem test_fault_lifecycle :
    answer (exec (.f2 keyK randV) State.reset) = [0x04, 0x00] ∧ answer (exec (.f5 keyK randV) inSetup) = [0x04, 0x00]
    ∧ answer (exec (.wrctx 0x00 opV) inReady) = [0x04, 0x00] ∧ answer (exec (.deriveopc keyK) inReady) = [0x04, 0x00] := by
  decide +kernel

theorem test_fault_sticky :
    (after (exec (.rdctx 0x05) (after (exec (.f2 keyK randV) State.reset)))).fault = .errState
    ∧ (after (exec .ctxinit (after (exec (.f2 keyK randV) State.reset)))).fault = .errState
    ∧ (resetEngine (after (exec (.f2 keyK randV) State.reset))).fault = .ok := by decide +kernel

/-! ## Assembler lines (R80, R81) -/

theorem test_line_setw :
    assembleLine ['S', 'E', 'T', 'W', ' ', 'K', 'E', 'Y', '_', 'W', ',', ' ', '1', '6']
      = some (some (.wrctx 0x10 (padRight 32 [0x10]))) := by decide +kernel

theorem test_line_rdctx :
    assembleLine ['R', 'D', 'C', 'T', 'X', ' ', '0', 'x', '0', '5', ' ', ';', ' ', 'x'] = some (some (.rdctx 0x05))
    ∧ assembleLine ['R', 'D', 'C', 'T', 'X', ' ', 'F', 'A', 'U', 'L', 'T'] = some (some (.rdctx 0x21)) := by decide +kernel

theorem test_line_named_operands_in_any_order :
    assembleLine ['F', '2', ' ', 'r', 'a', 'n', 'd', '=', '0', '1', ',', ' ', 'k', 'e', 'y', '=', '0', '2', 'f', 'f']
      = some (some (.f2 (padRight 32 [0x02, 0xff]) (padRight 16 [0x01]))) := by decide +kernel

theorem test_line_operand_too_long : asmField 2 ['0', '1', '0', '2', '0', '3'] = none := by decide +kernel

/-! ## Witnesses: the hypotheses of every statement can be met -/

theorem witness_DecodeThenEncodeGivesTheDescriptor : decode [0x12, 0x21] = .ok (.rdctx 0x21) := by decide

theorem witness_DecodingProcedure :
    ¬ AssignedOpcode 0x08 ∧ ¬ AssignedOpcode 0x0f ∧ ¬ AssignedOpcode 0x14 ∧ ¬ AssignedOpcode 0x1f ∧ ¬ AssignedOpcode 0x21
    ∧ AssignedOpcode 0x00 ∧ AssignedOpcode 0x07 ∧ AssignedOpcode 0x10 ∧ AssignedOpcode 0x13 ∧ AssignedOpcode 0x20
    ∧ opcodeRow 0x10 = some ⟨0x10, .ctxinit, .z⟩ ∧ [(0x10 : Byte), 0x00].length ≠ Format.z.length
    ∧ [(0x10 : Byte)].length = Format.z.length := by decide

theorem witness_PseudoInstructionsExpand :
    asmField 32 ['f', 'f'] = some (padRight 32 [0xff]) ∧ (['A', 'K', '_', 'W'], 0x17) ∈ asmWidthNames := by decide +kernel

theorem witness_StepRunsTheDecodedCommand :
    (handed State.reset [0x10]).host = .command [0x10] :: [] ∧ decode [0x10] = .ok .ctxinit := by decide

theorem witness_DecodeFaultsAreAnswered :
    (handed State.reset [0x08]).host = .command [0x08] :: [] ∧ ¬ AssignedOpcode 0x08
    ∧ (handed State.reset []).host = .command [] :: []
    ∧ (handed State.reset [0x12]).host = .command [0x12] :: [] ∧ opcodeRow 0x12 = some ⟨0x12, .rdctx, .r⟩
    ∧ [(0x12 : Byte)].length ≠ Format.r.length := by decide

theorem witness_StepWithoutACommand :
    State.reset.host = [] ∧ { scrambled with host := [HostEvent.reset] }.host = .reset :: [] := by decide

theorem witness_EveryCommandGetsOneResponse : (handed scrambled [0x10]).host = .command [0x10] :: [] := by decide

theorem handed_reset_inv : EngineInv (handed State.reset [0x10]) :=
  ⟨by decide +kernel, by decide +kernel, by decide +kernel⟩

theorem inSetup_inv : EngineInv inSetup := ⟨by decide +kernel, by decide +kernel, by decide +kernel⟩

theorem handed_inReady_inv : EngineInv (handed inReady [0x12, 0x20]) :=
  ⟨by decide +kernel, by decide +kernel, by decide +kernel⟩

/-- Each of the three clauses of the invariant has a state in which it speaks. -/
theorem witness_EveryStepKeepsTheInvariant :
    EngineInv (handed State.reset [0x10]) ∧ EngineInv inSetup ∧ EngineInv (handed inReady [0x12, 0x20])
    ∧ ∃ t, step (handed inReady [0x12, 0x20]) = .next t :=
  ⟨handed_reset_inv, inSetup_inv, handed_inReady_inv, _, rfl⟩

/-- Every clause of the statement is met: `CTXINIT` writes every context register and `LIFECYCLE`, a fault writes `FAULT`. -/
theorem witness_RegistersAreWrittenOnlyByTheirWriters :
    let t := freshContext scrambled
    exec .ctxinit scrambled = .next (respond t .ok [])
    ∧ (t.op ≠ scrambled.op ∧ t.opc ≠ scrambled.opc ∧ t.c ≠ scrambled.c ∧ t.lifecycle ≠ scrambled.lifecycle)
    ∧ (t.keyW ≠ scrambled.keyW ∧ t.resW ≠ scrambled.resW ∧ t.ckW ≠ scrambled.ckW ∧ t.ikW ≠ scrambled.ikW)
    ∧ (t.macW ≠ scrambled.macW ∧ t.nonceW ≠ scrambled.nonceW ∧ t.sqnW ≠ scrambled.sqnW ∧ t.akW ≠ scrambled.akW)
    ∧ (after (exec (.rdctx 0x22) scrambled)).fault ≠ scrambled.fault :=
  ⟨rfl, by decide +kernel, by decide +kernel, by decide +kernel, by decide +kernel⟩

theorem witness_ReadyContextIsFrozen :
    inReady.lifecycle = .ready ∧ (Instr.wrctx 0x00 opV) ≠ .ctxinit ∧ ∃ t, exec (.wrctx 0x00 opV) inReady = .next t :=
  ⟨rfl, fun h => Instr.noConfusion h, _, rfl⟩

/-- Both a completing and a faulting reading command. -/
theorem witness_ReadingCommandsWriteNoRegister :
    isReadOnly (.rdctx 0x20) = true ∧ answer (exec (.rdctx 0x20) inReady) = [0x00, 0x01, 0x02]
    ∧ answer (exec (.rdctx 0x22) inReady) = [0x03, 0x00] := by decide +kernel

theorem witness_ReadingCommandsCommute :
    isReadOnly (.rdctx 0x20) = true ∧ isReadOnly (.rdctx 0x15) = true
    ∧ (∃ r, (after (exec (.rdctx 0x20) inReady)).responses = inReady.responses ++ [r] ∧ r.status = .ok)
    ∧ ∃ r, (after (exec (.rdctx 0x15) inReady)).responses = inReady.responses ++ [r] ∧ r.status = .ok :=
  ⟨rfl, rfl, ⟨_, rfl, rfl⟩, _, rfl, rfl⟩

/-- With nothing recorded and with a code recorded. -/
theorem witness_FaultRegisterHoldsTheFirstFault :
    (handed State.reset [0x08]).fault = firstFault (handed State.reset [0x08]).responses
    ∧ (handed State.reset [0x08]).host = .command [0x08] :: []
    ∧ (afterFault State.reset .errReg).fault = firstFault (afterFault State.reset .errReg).responses
    ∧ (afterFault State.reset .errReg).fault = .errReg := by decide +kernel

theorem witness_FaultsArePrecise :
    ∃ t r, exec (.rdctx 0x22) inReady = .next t ∧ t.responses = inReady.responses ++ [r] ∧ r.status ≠ .ok :=
  ⟨_, _, rfl, rfl, by decide⟩

theorem witness_LifecycleMatrix :
    State.reset.lifecycle ≠ .ready ∧ inSetup.lifecycle ≠ .ready ∧ isSuite (.f2 keyK randV) = true
    ∧ State.reset.lifecycle ≠ .setup ∧ inReady.lifecycle ≠ .setup ∧ HostWritable 0x00 ∧ HostWritable 0x10 ∧ HostWritable 0x17
    ∧ ∃ t r, exec (.deriveopc keyK) State.reset = .next t ∧ t.responses = State.reset.responses ++ [r] ∧ r.status = .errState :=
  ⟨by decide, by decide, rfl, by decide, by decide, by decide, by decide, by decide, _, _, rfl, rfl, rfl⟩

theorem witness_RegisterNumberFaults :
    ¬ AssignedReg 0x02 ∧ ¬ AssignedReg 0x07 ∧ ¬ AssignedReg 0x18 ∧ ¬ AssignedReg 0x1f ∧ ¬ AssignedReg 0x22
    ∧ ¬ HostWritable 0x01 ∧ ¬ HostWritable 0x08 ∧ ¬ HostWritable 0x0f ∧ ¬ HostWritable 0x18 ∧ ¬ HostWritable 0x20 := by decide

/-- With `NONCE_W = 2` no `WIDTH_ADJ` puts `F1_HI` in range. -/
theorem f1Hi_out_of_range : ¬ F1HiOk Config.widthAdj { inReady with nonceW := 2 } := by
  have h : (2 : Nat) / Config.widthAdj ≤ 2 := Nat.div_le_self _ _
  have h2 : ({ inReady with nonceW := 2 } : State).nonceW.toNat = 2 := rfl
  simp only [F1HiOk, f1Hi, h2]
  omega

theorem witness_ConfigurationFaults :
    ({ inSetup with nonceW := 1 } : State).lifecycle = .setup ∧ ¬ CfgOk { inSetup with nonceW := 1 }
    ∧ ({ inReady with nonceW := 2 } : State).lifecycle = .ready ∧ ¬ F1HiOk Config.widthAdj { inReady with nonceW := 2 }
    ∧ ∃ t r, exec (.deriveopc keyK) { inSetup with nonceW := 1 } = .next t ∧ t.responses = [] ++ [r] ∧ r.status = .errConfig :=
  ⟨rfl, by decide, rfl, f1Hi_out_of_range, _, _, rfl, rfl, rfl⟩

theorem witness_WrctxResult :
    inSetup.lifecycle = .setup ∧ State.reset.lifecycle ≠ .setup ∧ inReady.lifecycle ≠ .setup
    ∧ HostWritable 0x17 ∧ ¬ HostWritable 0x18 := by decide

theorem witness_RdctxResult : ¬ AssignedReg 0x02 ∧ ¬ AssignedReg 0xff := by decide

theorem witness_ReadAfterWriteReturnsTheValue :
    inSetup.lifecycle = .setup ∧ HostWritable 0x00 ∧ HostWritable 0x10 ∧ HostWritable 0x17 := by decide

theorem witness_DeriveopcResult :
    inSetup.lifecycle = .setup ∧ CfgOk inSetup
    ∧ ({ inSetup with akW := 13 } : State).lifecycle = .setup ∧ ¬ CfgOk { inSetup with akW := 13 }
    ∧ State.reset.lifecycle ≠ .setup := by decide

theorem witness_DomainVectorBytes :
    inSetup.keyW.toNat = 32 ∧ 1 ≤ ({ inSetup with keyW := 1 } : State).keyW.toNat
    ∧ ({ inSetup with keyW := 31 } : State).keyW.toNat ≤ 31 := by decide

theorem witness_PaddedKeyBytes : inSetup.keyW.toNat = 32 := by decide

/-- V-S9: `KEY_W` 15 and 16, byte 15 of the key zero. -/
theorem witness_EqualPaddedKeysDeriveEqualOpc :
    (let s : State := { inSetup with keyW := 15 }
     let s' : State := { inSetup with keyW := 16 }
     let key := hex 32 0x000102030405060708090a0b0c0d0e0077777777777777777777777777777777
     s.lifecycle = .setup ∧ s'.lifecycle = .setup ∧ CfgOk s ∧ CfgOk s' ∧ s.op = s'.op ∧ s.keyW.toNat < 32 ∧ s'.keyW.toNat < 32
     ∧ padKey s key = padKey s' key) := by decide +kernel

/-- In these states `DERIVEOPC` answers a next state. -/
theorem witness_derivation_completes (key : Bytes 32) :
    (∃ t, exec (.deriveopc key) { inSetup with keyW := 15 } = .next t)
    ∧ ∃ t, exec (.deriveopc key) { inSetup with keyW := 16 } = .next t := ⟨⟨_, rfl⟩, _, rfl⟩

/-- A collaborator with the four properties. -/
def plainAes : Aes where
  subBytes := fun s => s
  shiftRows := fun s => s
  mixColumns := fun s => s
  addRoundKey := fun s _ => s
  keyWord := fun _ _ => zeros 4

theorem witness_CipherIsInjectiveOverAnyCollaborator :
    Function.Injective plainAes.subBytes ∧ Function.Injective plainAes.shiftRows ∧ Function.Injective plainAes.mixColumns
    ∧ ∀ k, Function.Injective fun s => plainAes.addRoundKey s k :=
  ⟨fun _ _ h => h, fun _ _ h => h, fun _ _ h => h, fun _ _ _ h => h⟩

/-- An index for each case of the recurrence. -/
theorem witness_KeyScheduleRecurrence : 8 % 8 = 0 ∧ 12 % 8 = 4 ∧ 9 % 8 ≠ 0 ∧ 9 % 8 ≠ 4 := by decide

/-- Another collaborator, at which the machine answers too: `ENCRYPT` with the layers of `plainAes` only permutes, so a block of equal
bytes comes back. -/
theorem test_encrypt_at_plain_aes :
    answer (execWith ⟨plainAes, 2⟩ (.encrypt keyK (hex 32 0x5a5a5a5a5a5a5a5a5a5a5a5a5a5a5a5a5a5a5a5a5a5a5a5a5a5a5a5a5a5a5a5a)) State.reset) = 0x00 :: 0x20 :: List.replicate 32 0x5a := by
  decide +kernel

theorem witness_MachineAtAnyParameters :
    inReady.lifecycle = .ready ∧ CfgOk inReady ∧ F1HiOk 2 inReady ∧ inSetup.lifecycle = .setup ∧ CfgOk inSetup
    ∧ (handed State.reset [0x10]).host = .command [0x10] :: [] ∧ decode [0x10] = .ok .ctxinit
    ∧ EngineInv (handed inReady [0x12, 0x20]) ∧ ∃ t, stepWith ⟨plainAes, 2⟩ (handed inReady [0x12, 0x20]) = .next t :=
  ⟨rfl, by decide, by decide, rfl, by decide, rfl, rfl, handed_inReady_inv, _, rfl⟩

theorem witness_CoreTransform : inReady.nonceW.toNat ≤ 16 := by decide

theorem witness_ByteZeroFields :
    CfgOk inReady ∧ inReady.keyW.toNat = 32
    ∧ CfgOk { inReady with nonceW := 15 } ∧ ({ inReady with nonceW := 15 } : State).nonceW.toNat % 2 = 1 := by decide

theorem witness_PackingNeverOverflows :
    CfgOk inReady ∧ F1HiOk 2 inReady ∧ CfgOk { inReady with nonceW := 12 } ∧ F1HiOk 1 { inReady with nonceW := 12 } := by decide

/-- For the results of the eight suite commands: `READY` with legal widths, and outside `READY`. -/
theorem witness_suite_results :
    inReady.lifecycle = .ready ∧ CfgOk inReady ∧ State.reset.lifecycle ≠ .ready ∧ inSetup.lifecycle ≠ .ready := by decide

theorem witness_MacCommandsOverEveryWidthAdj :
    inReady.lifecycle = .ready ∧ CfgOk inReady ∧ 5 ≤ inReady.nonceW.toNat / 2 ∧ inReady.nonceW.toNat / 2 ≤ 12
    ∧ 5 ≤ inReady.nonceW.toNat / 3 ∧ inReady.nonceW.toNat / 4 < 5 ∧ 12 < inReady.nonceW.toNat / 1 := by decide

theorem witness_IgnoredOperandBytesNeverMatter :
    CfgOk { inReady with keyW := 16, nonceW := 12, macW := 8 }
    ∧ AgreeLeading 16 keyK (hex 32 0x000102030405060708090a0b0c0d0e0feeeeeeeeeeeeeeeeeeeeeeeeeeeeeeee)
    ∧ AgreeLeading 12 randV (hex 16 0x23553cbe9637a89d218ae64deeeeeeee)
    ∧ AgreeLeading 6 sqnV (hex 12 0xff9bb4d0b607eeeeeeeeeeee)
    ∧ AgreeLeading (min 8 30) macsV (hex 32 0x3ceb4834e63c36deeeeeeeeeeeeeeeeeeeeeeeeeeeeeeeeeeeeeeeeeeeeeeeee)
    ∧ AgreeLeading 1 opV (hex 32 0xff00000000000000000000000000000000000000000000000000000000000000) ∧ (0x10 : Byte) ≠ 0x00 := by
  unfold AgreeLeading
  decide +kernel

theorem witness_SuiteAndEncryptNeverReadOp :
    isSuite (.f2 keyK randV) = true ∧ (∃ t, exec (.f2 keyK randV) inReady = .next t)
    ∧ ∃ t, exec (.encrypt keyK opV) inReady = .next t := ⟨rfl, ⟨_, rfl⟩, _, rfl⟩

theorem inReady_widest_inv : EngineInv { inReady with macW := 30 } :=
  ⟨by decide +kernel, by decide +kernel, by decide +kernel⟩

/-- With `MAC_W = 16` (V-S1: the overlay reaches bytes 16 and 17) and with `MAC_W = 30` (it reaches byte 31). -/
theorem witness_OverlayMeetsTheConstant :
    EngineInv (handed inReady [0x12, 0x20]) ∧ (handed inReady [0x12, 0x20]).lifecycle = .ready
    ∧ (handed inReady [0x12, 0x20]).macW.toNat < 30 ∧ 17 < 2 + min (handed inReady [0x12, 0x20]).macW.toNat 30
    ∧ 2 + min (handed inReady [0x12, 0x20]).macW.toNat 30 ≤ 18
    ∧ EngineInv { inReady with macW := 30 } ∧ 30 ≤ ({ inReady with macW := 30 } : State).macW.toNat :=
  ⟨handed_inReady_inv, rfl, by decide, by decide, by decide, inReady_widest_inv, by decide⟩

/-- Two functions, and one function with two sequence numbers that differ in the last byte that is used. -/
theorem witness_DifferentInputBlocksGiveDifferentResults :
    CfgOk inReady ∧ (2 : Fin 8) ≠ 3
    ∧ inBlock inReady 2 7 ⟨keyK, randV, none, none, none⟩ ≠ inBlock inReady 3 31 ⟨keyK, randV, none, none, none⟩
    ∧ 5 < inReady.sqnW.toNat ∧ sqnV.toList.getD 5 0 ≠ (hex 12 0xff9bb4d0b606000000000000).toList.getD 5 0 := by decide +kernel

end Sys2Proof.Tests
end

section
/-! SUPPORT. The table of values after reset and after `CTXINIT` (10_state.md R49). -/

namespace Sys2Proof.Machine

/-- `C[i]` byte by byte (42_context.md R140). -/
@[simp] theorem personalization_getElem (i j : Nat) (hi : i < 8) (hj : j < 16) :
    (personalization[i])[j] = if i ≠ 0 ∧ j = 15 then BitVec.ofNat 8 (1 <<< (i - 1)) else 0 := by
  simp only [personalization, Vector.getElem_ofFn]

/-- `CTXINIT` completes in every lifecycle state (42_context.md R141). -/
theorem exec_ctxinit (s : State) : exec .ctxinit s = .next (respond (freshContext s) .ok []) := rfl

/-- The column "value after reset" for the context registers. -/
theorem reset_contextZero : ContextZero State.reset :=
  ⟨rfl, rfl, rfl, rfl, rfl, rfl, rfl, rfl, rfl, rfl, rfl⟩

/-- Settles O11: the reset column is `State.reset` read field by field, and the other column is the fresh context `CTXINIT`
answers in, whose constants `personalization_getElem` gives byte by byte. -/
theorem resetAndInitializationValues : Obligations.ResetAndInitializationValues := by
  unfold Obligations.ResetAndInitializationValues
  refine ⟨⟨reset_contextZero, rfl, rfl⟩, fun s => ⟨_, exec_ctxinit s, ?_⟩⟩
  exact ⟨rfl, rfl, fun i j => personalization_getElem i j i.isLt j.isLt, by simp⟩

end Sys2Proof.Machine
end

section
/-! SUPPORT. The decoding procedure (30_encoding.md R78): what `decode` answers in each of its cases, and that the fields it cuts,
laid out again by `encode`, are the descriptor. -/

namespace Sys2Proof

/-! ## Consecutive fields of a descriptor -/

/-- A field, followed by what comes after it. -/
theorem field_toList_append_drop {n start next : Nat} {d : List Byte} (hnext : start + n = next) (h : next ≤ d.length) :
    (field n start d).toList ++ d.drop next = d.drop start := by
  subst hnext
  rw [field_toList d h, ← List.drop_drop, List.take_append_drop]

/-- The last field. -/
theorem field_toList_eq_drop {n start : Nat} {d : List Byte} (h : d.length = start + n) :
    (field n start d).toList = d.drop start := by
  rw [field_toList d h.ge, List.take_of_length_le (by simp [h])]

/-- The bytes behind the opcode of a descriptor of format P (R71). -/
theorem fields_formatP {d : List Byte} (h : d.length = 49) :
    (field 32 1 d).toList ++ (field 16 33 d).toList = d.drop 1 := by
  rw [field_toList_eq_drop (start := 33) h, field_toList_append_drop rfl (by omega)]

/-- The bytes behind the opcode of a descriptor of format E (R71). -/
theorem fields_formatE {d : List Byte} (h : d.length = 65) :
    (field 32 1 d).toList ++ (field 32 33 d).toList = d.drop 1 := by
  rw [field_toList_eq_drop (start := 33) h, field_toList_append_drop rfl (by omega)]

/-- The bytes behind the opcode of a descriptor of format M (R71). -/
theorem fields_formatM {d : List Byte} (h : d.length = 81) :
    (field 32 1 d).toList ++ ((field 16 33 d).toList ++ (field 32 49 d).toList) = d.drop 1 := by
  rw [field_toList_eq_drop (start := 49) h, field_toList_append_drop (start := 33) rfl (by omega),
    field_toList_append_drop rfl (by omega)]

/-- The bytes behind the opcode of a descriptor of format A (R71). -/
theorem fields_formatA {d : List Byte} (h : d.length = 63) :
    (field 32 1 d).toList ++ ((field 16 33 d).toList ++ ((field 2 49 d).toList ++ (field 12 51 d).toList)) = d.drop 1 := by
  rw [field_toList_eq_drop (start := 51) h, field_toList_append_drop (start := 49) rfl (by omega),
    field_toList_append_drop (start := 33) rfl (by omega), field_toList_append_drop rfl (by omega)]

/-! ## The fields laid out again -/

@[simp] theorem cutFields_mnemonic (m : Mnemonic) (d : List Byte) : (cutFields m d).mnemonic = m := by
  cases m <;> rfl

/-- Cutting a descriptor of the right length into its fields drops no byte of it. -/
theorem encode_cutFields {m : Mnemonic} {rest : List Byte} (h : (opcodeByte m :: rest).length = requiredLength m) :
    encode (cutFields m (opcodeByte m :: rest)) = opcodeByte m :: rest := by
  cases m with
  | f1s | f1 => exact congrArg (_ :: ·) (fields_formatA h)
  | f2 | f3 | f4 | f5 | f5s => exact congrArg (_ :: ·) (fields_formatP h)
  | f5ss => exact congrArg (_ :: ·) (fields_formatM h)
  | deriveopc => exact congrArg (_ :: ·) (field_toList_eq_drop (n := 32) (start := 1) h)
  | encrypt => exact congrArg (_ :: ·) (fields_formatE h)
  | ctxinit =>
    obtain rfl : rest = [] := List.length_eq_zero_iff.1 (Nat.succ.inj h)
    rfl
  | rdctx =>
    obtain ⟨reg, rfl⟩ := List.length_eq_one_iff.1 (Nat.succ.inj h)
    rfl
  | wrctx =>
    obtain ⟨reg, data, rfl⟩ := List.exists_cons_of_length_eq_add_one (Nat.succ.inj h)
    exact congrArg (_ :: reg :: ·) (field_toList_eq_drop (n := 32) (start := 2) h)

/-! ## The cases of the decoder -/

theorem decode_of_mnemonicOf_none {op : Byte} (rest : List Byte) (h : mnemonicOf op = none) :
    decode (op :: rest) = .error .errOpcode := by
  simp [decode, h]

theorem decode_of_wrong_length {op : Byte} {m : Mnemonic} {rest : List Byte} (h : mnemonicOf op = some m)
    (hlen : (op :: rest).length ≠ requiredLength m) : decode (op :: rest) = .error .errLength := by
  simp only [decode, h, if_neg hlen]

theorem decode_of_right_length {op : Byte} {m : Mnemonic} {rest : List Byte} (h : mnemonicOf op = some m)
    (hlen : (op :: rest).length = requiredLength m) : decode (op :: rest) = .ok (cutFields m (op :: rest)) := by
  simp only [decode, h, if_pos hlen]

/-! ## The opcode map against the assigned opcodes -/

/-- A reserved opcode (R77) has no row in the opcode map. -/
theorem opcodeRow_of_reserved : ∀ op : Byte, ¬ Machine.AssignedOpcode op → opcodeRow op = none := by decide +kernel

/-- An assigned opcode (R77) has a row, whose format has the length R78 lists for the opcode. -/
theorem opcodeRow_length_of_assigned : ∀ op : Byte, Machine.AssignedOpcode op →
    (opcodeRow op).map (·.format.length) =
      some (if op.toNat ≤ 0x01 then 63 else if op.toNat ≤ 0x06 then 49 else if op.toNat = 0x07 then 81
        else if op.toNat = 0x10 then 1 else if op.toNat = 0x11 then 34 else if op.toNat = 0x12 then 2
        else if op.toNat = 0x13 then 33 else 65) := by decide +kernel

/-- The decoder's mnemonic and length are those of the row of the opcode. -/
theorem mnemonicOf_of_opcodeRow {op : Byte} {row : OpcodeRow} (h : opcodeRow op = some row) :
    mnemonicOf op = some row.mnemonic ∧ requiredLength row.mnemonic = row.format.length :=
  opcodeRow_agrees op row (List.mem_of_find?_eq_some h) h

/-- Settles O3, along the cases of R78: the opcode map and the decoder's tables agree on every opcode, and for an assigned opcode
the length decides between the fault and the command whose fields are cut. -/
theorem decodingProcedure : Obligations.DecodingProcedure := by
  unfold Obligations.DecodingProcedure
  refine fun d => ⟨fun hd => by rw [hd]; rfl, ?_⟩
  rintro op rest rfl
  refine ⟨fun hres => decode_of_mnemonicOf_none rest (mnemonicOf_of_no_row op (opcodeRow_of_reserved op hres)), fun hasg => ?_⟩
  obtain ⟨row, hrow, hlength⟩ := Option.map_eq_some_iff.1 (opcodeRow_length_of_assigned op hasg)
  obtain ⟨hm, hreq⟩ := mnemonicOf_of_opcodeRow hrow
  obtain rfl := mnemonicOf_eq_some hm
  refine ⟨row, hrow, hlength, fun hlen => ?_, fun hlen => ?_⟩ <;> rw [← hreq] at hlen
  · exact decode_of_wrong_length hm hlen
  · exact ⟨_, decode_of_right_length hm hlen, cutFields_mnemonic _ _, encode_cutFields hlen⟩

end Sys2Proof
end


section
/-! SUPPORT. The command `ENCRYPT` (41_cipher.md R127): its descriptor of format E, and its answer. -/

namespace Sys2Proof.Machine

/-- The fields cut from a descriptor of format E are the two operands it was laid out from (R71). -/
theorem cutFields_encrypt (op : Byte) (key block : Bytes 32) :
    cutFields .encrypt (op :: (key.toList ++ block.toList)) = .encrypt key block := by
  have hkey : field 32 1 (op :: (key.toList ++ block.toList)) = key :=
    field_append [op] key block.toList rfl
  have hblock : field 32 33 (op :: (key.toList ++ block.toList)) = block := by
    simpa using field_append (op :: key.toList) block [] (by simp)
  simp only [cutFields, hkey, hblock]

/-- The descriptor of `ENCRYPT` has the length of format E, so it decodes to the command with its operands. -/
theorem decode_encrypt (key block : Bytes 32) :
    decode (0x20 :: (key.toList ++ block.toList)) = .ok (.encrypt key block) := by
  rw [decode_of_right_length (m := .encrypt) rfl (by simp [requiredLength]), cutFields_encrypt]

/-- `ENCRYPT` completes in every lifecycle state, with the ciphertext block over the default AES instance (R10). -/
theorem exec_encrypt (key block : Bytes 32) (s : State) :
    exec (.encrypt key block) s = .next (respond s .ok (encryptBlock fips197 key block).toList) := rfl

/-- Settles O32: the descriptor decodes to its operands, and the command answers `OK` with the ciphertext without looking at the
state. -/
theorem encryptResult : Obligations.EncryptResult := by
  unfold Obligations.EncryptResult
  refine fun s key block => ⟨decode_encrypt key block, ?_⟩
  rw [exec_encrypt, respond_eq_afterOk]

end Sys2Proof.Machine
end

section
/-! SUPPORT. The context commands (42_context.md): which register numbers are assigned and which the host may write
(10_state.md R43), the descriptors of the four commands, and each command's answers, one lemma per case. -/

namespace Sys2Proof.Machine

/-! ## Register numbers (10_state.md R43) -/

/-- A number names a register exactly if it is assigned. -/
theorem regOf_eq_none_iff : ∀ reg : Byte, regOf reg = none ↔ ¬ AssignedReg reg := by decide +kernel

theorem regOf_constant : ∀ i : Fin 8, regOf (BitVec.ofNat 8 (0x08 + i.val)) = some (.constant i) := by decide

/-- The registers of R43 that the host may write: `OP` and the widths. -/
def takesHostWrite : Reg → Bool
  | .op => true
  | .width _ => true
  | .opc => false
  | .constant _ => false
  | .lifecycle => false
  | .fault => false

theorem hostWrite_isSome (s : State) (data : Bytes 32) (r : Reg) : (hostWrite s data r).isSome = takesHostWrite r := by
  cases r <;> rfl

theorem regOf_any_takesHostWrite : ∀ reg : Byte, (regOf reg).any takesHostWrite = true ↔ HostWritable reg := by
  decide +kernel

/-- Whether a number names a register that takes a host write depends on neither the state nor the data. -/
theorem hostWrite_regOf_isSome_iff (s : State) (reg : Byte) (data : Bytes 32) :
    ((regOf reg).bind (hostWrite s data)).isSome = true ↔ HostWritable reg := by
  simp only [Option.isSome_bind, hostWrite_isSome, regOf_any_takesHostWrite]

/-! ## Descriptors (30_encoding.md R71, R74) -/

/-- The fields cut from a descriptor of format W are the register and the data it was laid out from. -/
theorem cutFields_wrctx (op reg : Byte) (data : Bytes 32) :
    cutFields .wrctx (op :: reg :: data.toList) = .wrctx reg data :=
  congrArg (Instr.wrctx reg) (by simpa using field_append [op, reg] data [] rfl)

/-- The field cut from a descriptor of format K is the key it was laid out from. -/
theorem cutFields_deriveopc (op : Byte) (key : Bytes 32) : cutFields .deriveopc (op :: key.toList) = .deriveopc key :=
  congrArg Instr.deriveopc (by simpa using field_append [op] key [] rfl)

theorem decode_wrctx (reg : Byte) (data : Bytes 32) : decode (0x11 :: reg :: data.toList) = .ok (.wrctx reg data) := by
  rw [decode_of_right_length (m := .wrctx) rfl (by simp [requiredLength]), cutFields_wrctx]

theorem decode_rdctx (reg : Byte) : decode [0x12, reg] = .ok (.rdctx reg) := rfl

theorem decode_deriveopc (key : Bytes 32) : decode (0x13 :: key.toList) = .ok (.deriveopc key) := by
  rw [decode_of_right_length (m := .deriveopc) rfl (by simp [requiredLength]), cutFields_deriveopc]

theorem decode_ctxinit : decode [0x10] = .ok .ctxinit := rfl

/-! ## `WRCTX` (R142) -/

/-- In `SETUP` the write takes effect and the answer carries no data. -/
theorem exec_wrctx_of_setup {s t : State} {reg : Byte} {data : Bytes 32} (hl : s.lifecycle = .setup)
    (hw : (regOf reg).bind (hostWrite s data) = some t) : exec (.wrctx reg data) s = .next (afterOk t []) := by
  rw [← respond_eq_afterOk]
  simp only [exec, execWrctx, hw, if_pos hl]

theorem exec_wrctx_of_not_setup {s : State} {reg : Byte} (data : Bytes 32) (hl : s.lifecycle ≠ .setup)
    (hreg : HostWritable reg) : exec (.wrctx reg data) s = .next (afterFault s .errState) := by
  obtain ⟨t, hw⟩ := Option.isSome_iff_exists.1 ((hostWrite_regOf_isSome_iff s reg data).2 hreg)
  rw [← raise_eq_afterFault]
  simp only [exec, execWrctx, hw, if_neg hl]

/-- The register is checked before the lifecycle (60_exceptions.md R195). -/
theorem exec_wrctx_of_not_hostWritable (s : State) {reg : Byte} (data : Bytes 32) (hreg : ¬ HostWritable reg) :
    exec (.wrctx reg data) s = .next (afterFault s .errReg) := by
  have hw : (regOf reg).bind (hostWrite s data) = none :=
    Option.not_isSome_iff_eq_none.1 (mt (hostWrite_regOf_isSome_iff s reg data).1 hreg)
  rw [← raise_eq_afterFault]
  simp only [exec, execWrctx, hw]

/-- Settles O25: each of the nine writable numbers names the register its clause updates, and the faults follow from whether the
number is host-writable and the lifecycle is `SETUP`. -/
theorem wrctxResult : Obligations.WrctxResult := by
  unfold Obligations.WrctxResult
  refine fun s data => ⟨(decode_wrctx · data), fun hl => ?_,
    fun hl _ => exec_wrctx_of_not_setup data hl, fun _ => exec_wrctx_of_not_hostWritable s data⟩
  have hwrite : ∀ {reg : Byte} {t : State}, (regOf reg).bind (hostWrite s data) = some t →
      exec (.wrctx reg data) s = .next (afterOk t []) := exec_wrctx_of_setup hl
  exact ⟨hwrite rfl, hwrite rfl, hwrite rfl, hwrite rfl, hwrite rfl, hwrite rfl, hwrite rfl, hwrite rfl, hwrite rfl⟩

/-! ## `RDCTX` (R143) -/

theorem exec_rdctx_of_regOf (s : State) {reg : Byte} {r : Reg} (hr : regOf reg = some r) :
    exec (.rdctx reg) s = .next (afterOk s (readReg s r)) := by
  rw [← respond_eq_afterOk]
  simp only [exec, execRdctx, hr]

theorem exec_rdctx_of_not_assigned (s : State) {reg : Byte} (hreg : ¬ AssignedReg reg) :
    exec (.rdctx reg) s = .next (afterFault s .errReg) := by
  rw [← raise_eq_afterFault]
  simp only [exec, execRdctx, (regOf_eq_none_iff reg).2 hreg]

/-- Settles O26: each of the twenty numbers names the register its clause reads, and the others name none. -/
theorem rdctxResult : Obligations.RdctxResult := by
  unfold Obligations.RdctxResult
  intro s
  have hread : ∀ {reg : Byte} (r : Reg), regOf reg = some r → exec (.rdctx reg) s = .next (afterOk s (readReg s r)) :=
    fun _ => exec_rdctx_of_regOf s
  exact ⟨decode_rdctx, hread .op rfl, hread .opc rfl, fun i => hread (.constant i) (regOf_constant i),
    hread (.width .keyW) rfl, hread (.width .resW) rfl, hread (.width .ckW) rfl, hread (.width .ikW) rfl,
    hread (.width .macW) rfl, hread (.width .nonceW) rfl, hread (.width .sqnW) rfl, hread (.width .akW) rfl,
    hread .lifecycle rfl, hread .fault rfl, fun _ => exec_rdctx_of_not_assigned s⟩

/-! ## `DERIVEOPC` (R144) -/

/-- The model's steps compute the formula of R144, which has the operands of each XOR the other way round. -/
theorem derivedOpc_eq (A : Aes) (s : State) (key : Bytes 32) :
    derivedOpc A s key = xorBytes s.op (encryptBlock A (padKey s key)
      (xorBytes (domainVector s) (encryptBlock A (padKey s key) s.op))) := by
  rw [derivedOpc, xorBytes_comm _ s.op, xorBytes_comm _ (domainVector s)]

/-- `DERIVEOPC` completes in `SETUP` with legal widths, over any parameters of the machine (R9, R10). -/
theorem deriveopcWith_of_cfgOk (P : Params) {s : State} (key : Bytes 32) (hl : s.lifecycle = .setup) (hc : CfgOk s) :
    deriveopcWith P key s = afterOk { s with opc := derivedOpc P.aes s key, lifecycle := .ready } [] := by
  rw [deriveopcWith, if_pos hl, if_pos hc, respond_eq_afterOk]

theorem deriveopcWith_of_not_cfgOk (P : Params) {s : State} (key : Bytes 32) (hl : s.lifecycle = .setup) (hc : ¬ CfgOk s) :
    deriveopcWith P key s = afterFault s .errConfig := by
  rw [deriveopcWith, if_pos hl, if_neg hc, raise_eq_afterFault]

theorem deriveopcWith_of_not_setup (P : Params) {s : State} (key : Bytes 32) (hl : s.lifecycle ≠ .setup) :
    deriveopcWith P key s = afterFault s .errState := by
  rw [deriveopcWith, if_neg hl, raise_eq_afterFault]

theorem exec_deriveopc (key : Bytes 32) (s : State) :
    exec (.deriveopc key) s = .next (deriveopcWith engineParams key s) := rfl

/-- Settles O28: the lifecycle check, then the width check, and where both hold `derivedOpc_eq` over the default AES, FIPS-197
(R10). -/
theorem deriveopcResult : Obligations.DeriveopcResult := by
  unfold Obligations.DeriveopcResult
  refine fun s key => ⟨decode_deriveopc key, fun hl hc => ?_, fun hl hc => ?_, fun hl => ?_⟩ <;> rw [exec_deriveopc]
  · rw [deriveopcWith_of_cfgOk engineParams key hl hc, derivedOpc_eq]
    rfl
  · rw [deriveopcWith_of_not_cfgOk engineParams key hl hc]
  · rw [deriveopcWith_of_not_setup engineParams key hl]

/-! ## `CTXINIT` (R141) -/

/-- Settles O24: `CTXINIT` answers `OK` in the fresh context, which is the state the claim writes out. -/
theorem ctxinitResult : Obligations.CtxinitResult := by
  unfold Obligations.CtxinitResult
  refine ⟨decode_ctxinit, fun s => ?_⟩
  rw [exec_ctxinit, respond_eq_afterOk]
  rfl

end Sys2Proof.Machine
end

section
/-! SUPPORT. The descriptors of the eight suite commands (30_encoding.md R71, R74): each decodes to the command with the operands it
was laid out from. -/

namespace Sys2Proof.Machine

/-! ## The fields of a descriptor of format P, A or M -/

theorem field_key (op : Byte) (key : Bytes 32) (rest : List Byte) : field 32 1 (op :: (key.toList ++ rest)) = key :=
  field_append [op] key rest rfl

theorem field_rand (op : Byte) (key : Bytes 32) (rand : Bytes 16) (rest : List Byte) :
    field 16 33 (op :: (key.toList ++ (rand.toList ++ rest))) = rand :=
  field_append (op :: key.toList) rand rest (by simp)

/-- In format P the nonce is the last field. -/
theorem field_rand_last (op : Byte) (key : Bytes 32) (rand : Bytes 16) :
    field 16 33 (op :: (key.toList ++ rand.toList)) = rand := by
  simpa using field_rand op key rand []

theorem field_amf (op : Byte) (key : Bytes 32) (rand : Bytes 16) (amf : Bytes 2) (rest : List Byte) :
    field 2 49 (op :: (key.toList ++ (rand.toList ++ (amf.toList ++ rest)))) = amf := by
  simpa using field_append (op :: (key.toList ++ rand.toList)) amf rest (by simp)

theorem field_sqn (op : Byte) (key : Bytes 32) (rand : Bytes 16) (amf : Bytes 2) (sqn : Bytes 12) :
    field 12 51 (op :: (key.toList ++ (rand.toList ++ (amf.toList ++ sqn.toList)))) = sqn := by
  simpa using field_append (op :: (key.toList ++ (rand.toList ++ amf.toList))) sqn [] (by simp)

theorem field_macs (op : Byte) (key : Bytes 32) (rand : Bytes 16) (macs : Bytes 32) :
    field 32 49 (op :: (key.toList ++ (rand.toList ++ macs.toList))) = macs := by
  simpa using field_append (op :: (key.toList ++ rand.toList)) macs [] (by simp)

/-- The fields cut from the descriptor of a suite command are its operands. -/
theorem cutFields_encode_of_isSuite {i : Instr} (h : isSuite i = true) : cutFields i.mnemonic (encode i) = i := by
  cases i with
  | f1s | f1 => simp only [Instr.mnemonic, encode, cutFields, field_key, field_rand, field_amf, field_sqn]
  | f2 | f3 | f4 | f5 | f5s => simp only [Instr.mnemonic, encode, cutFields, field_key, field_rand_last]
  | f5ss => simp only [Instr.mnemonic, encode, cutFields, field_key, field_rand, field_macs]
  | ctxinit | wrctx | rdctx | deriveopc | encrypt => cases h

/-- The descriptor of a suite command decodes to it. -/
theorem decode_encode_of_isSuite {i : Instr} (h : isSuite i = true) : decode (encode i) = .ok i := by
  rw [← congrArg Except.ok (cutFields_encode_of_isSuite h)]
  cases i with
  | f1s | f1 | f2 | f3 | f4 | f5 | f5s | f5ss =>
    exact decode_of_right_length rfl (by simp [Instr.mnemonic, requiredLength])
  | ctxinit | wrctx | rdctx | deriveopc | encrypt => cases h

/-- The descriptor of `F1S` or `F1` (format A) with its fields laid out one after the other. -/
theorem formatA_append_assoc (key : Bytes 32) (rand : Bytes 16) (amf : Bytes 2) (sqn : Bytes 12) :
    key.toList ++ rand.toList ++ amf.toList ++ sqn.toList
      = key.toList ++ (rand.toList ++ (amf.toList ++ sqn.toList)) := by
  simp only [List.append_assoc]

end Sys2Proof.Machine
end

section
/-! SUPPORT. The skeleton of the suite commands (43_suite.md R180) in the terms claims are made in, and the answers of the eight
commands (R168 to R175). -/

namespace Sys2Proof.Machine

/-! ## The skeleton -/

/-- With legal widths the output is the leading bytes of the core transform, as claims write them. -/
theorem suiteOutput_eq_leading {s : State} (hc : CfgOk s) (A : Aes) (idx : Fin 8) (metadata n : Nat) (o : SuiteOperands) :
    suiteOutput A s idx metadata n o = leading n (coreTransform A s idx metadata o) :=
  suiteOutput_of_cfgOk hc A idx metadata n o

theorem suiteCommand_of_ready (P : Params) (idx : Fin 8) (metadata n : Nat) (o : SuiteOperands) {s : State}
    (hl : s.lifecycle = .ready) (hc : CfgOk s) :
    suiteCommand P idx metadata n o s = afterOk s (leading n (coreTransform P.aes s idx metadata o)) := by
  rw [suiteCommand, if_pos hl, suiteOutput_eq_leading hc, respond_eq_afterOk]

theorem suiteCommand_of_not_ready (P : Params) (idx : Fin 8) (metadata n : Nat) (o : SuiteOperands) {s : State}
    (hl : s.lifecycle ≠ .ready) : suiteCommand P idx metadata n o s = afterFault s .errState := by
  rw [suiteCommand, if_neg hl, raise_eq_afterFault]

/-- The metadata byte of f1s and f1 (R166) with the subtraction in the naturals. -/
theorem metaMac_eq (adj : Nat) (s : State) :
    metaMac adj s = ((s.nonceW.toNat / adj - 5) <<< 5) ||| (s.macW.toNat - 1) := by
  rw [metaMac, f1Hi, show ((s.nonceW.toNat / adj : Nat) - 5 : Int).toNat = s.nonceW.toNat / adj - 5 by omega]

/-- `READY` with legal widths: `F1_HI` alone decides between the MAC and `ERR_CONFIG`. -/
theorem macCommand_of_ready (P : Params) (idx : Fin 8) (o : SuiteOperands) {s : State}
    (hl : s.lifecycle = .ready) (hc : CfgOk s) :
    macCommand P idx o s =
      if F1HiOk P.widthAdj s then
        afterOk s (leading s.macW.toNat (coreTransform P.aes s idx
          (((s.nonceW.toNat / P.widthAdj - 5) <<< 5) ||| (s.macW.toNat - 1)) o))
      else afterFault s .errConfig := by
  rw [macCommand, if_pos hl, suiteOutput_eq_leading hc, respond_eq_afterOk, raise_eq_afterFault, metaMac_eq]

theorem macCommand_of_not_ready (P : Params) (idx : Fin 8) (o : SuiteOperands) {s : State} (hl : s.lifecycle ≠ .ready) :
    macCommand P idx o s = afterFault s .errState := by
  rw [macCommand, if_neg hl, raise_eq_afterFault]

/-! ## `F1S` and `F1` (R168, R169) -/

/-- What a command answers whose arm is the skeleton of the MAC commands at the engine's parameters: both clauses of its
result. -/
theorem exec_of_macCommand {i : Instr} {s : State} {idx : Fin 8} {o : SuiteOperands}
    (h : exec i s = .next (macCommand engineParams idx o s)) :
    (s.lifecycle = .ready → CfgOk s →
      exec i s = .next (
        if F1HiOk Config.widthAdj s then
          afterOk s (leading s.macW.toNat (coreTransform fips197 s idx
            (((s.nonceW.toNat / Config.widthAdj - 5) <<< 5) ||| (s.macW.toNat - 1)) o))
        else afterFault s .errConfig))
    ∧ (s.lifecycle ≠ .ready → exec i s = .next (afterFault s .errState)) := by
  refine ⟨fun hl hc => ?_, fun hl => ?_⟩
  · rw [h, macCommand_of_ready engineParams _ _ hl hc]
    rfl
  · rw [h, macCommand_of_not_ready engineParams _ _ hl]

/-- Settles O46: the skeleton of the MAC commands at index 0. -/
theorem f1sResult : Obligations.F1sResult := by
  unfold Obligations.F1sResult
  refine fun s key rand amf sqn => ⟨?_, exec_of_macCommand (o := ⟨key, rand, some amf, some sqn, none⟩) rfl⟩
  rw [formatA_append_assoc]
  exact decode_encode_of_isSuite (i := .f1s key rand amf sqn) rfl

/-- Settles O47: the skeleton of the MAC commands at index 1. -/
theorem f1Result : Obligations.F1Result := by
  unfold Obligations.F1Result
  refine fun s key rand amf sqn => ⟨?_, exec_of_macCommand (o := ⟨key, rand, some amf, some sqn, none⟩) rfl⟩
  rw [formatA_append_assoc]
  exact decode_encode_of_isSuite (i := .f1 key rand amf sqn) rfl

/-! ## The six other commands (R170 to R175) -/

/-- What a command answers whose arm is the skeleton of the other suite commands at the engine's parameters: both clauses of its
result. -/
theorem exec_of_suiteCommand {i : Instr} {s : State} {idx : Fin 8} {metadata n : Nat} {o : SuiteOperands}
    (h : exec i s = .next (suiteCommand engineParams idx metadata n o s)) :
    (s.lifecycle = .ready → CfgOk s →
      exec i s = .next (afterOk s (leading n (coreTransform fips197 s idx metadata o))))
    ∧ (s.lifecycle ≠ .ready → exec i s = .next (afterFault s .errState)) := by
  refine ⟨fun hl hc => ?_, fun hl => ?_⟩
  · rw [h, suiteCommand_of_ready engineParams _ _ _ _ hl hc]
    rfl
  · rw [h, suiteCommand_of_not_ready engineParams _ _ _ _ hl]

/-- Settles O49: the skeleton at index 2, with `RES_W` bytes. -/
theorem f2Result : Obligations.F2Result := by
  unfold Obligations.F2Result
  exact fun s key rand => ⟨decode_encode_of_isSuite (i := .f2 key rand) rfl,
    exec_of_suiteCommand (n := s.resW.toNat) (o := ⟨key, rand, none, none, none⟩) rfl⟩

/-- Settles O50: the skeleton at index 3, with `CK_W` bytes. -/
theorem f3Result : Obligations.F3Result := by
  unfold Obligations.F3Result
  exact fun s key rand => ⟨decode_encode_of_isSuite (i := .f3 key rand) rfl,
    exec_of_suiteCommand (n := s.ckW.toNat) (o := ⟨key, rand, none, none, none⟩) rfl⟩

/-- Settles O51: the skeleton at index 4, with `IK_W` bytes. -/
theorem f4Result : Obligations.F4Result := by
  unfold Obligations.F4Result
  exact fun s key rand => ⟨decode_encode_of_isSuite (i := .f4 key rand) rfl,
    exec_of_suiteCommand (n := s.ikW.toNat) (o := ⟨key, rand, none, none, none⟩) rfl⟩

/-- Settles O52: the skeleton at index 5, with `AK_W` bytes. -/
theorem f5Result : Obligations.F5Result := by
  unfold Obligations.F5Result
  exact fun s key rand => ⟨decode_encode_of_isSuite (i := .f5 key rand) rfl,
    exec_of_suiteCommand (n := s.akW.toNat) (o := ⟨key, rand, none, none, none⟩) rfl⟩

/-- Settles O53: the skeleton at index 6, with `AK_W` bytes. -/
theorem f5sResult : Obligations.F5sResult := by
  unfold Obligations.F5sResult
  exact fun s key rand => ⟨decode_encode_of_isSuite (i := .f5s key rand) rfl,
    exec_of_suiteCommand (n := s.akW.toNat) (o := ⟨key, rand, none, none, none⟩) rfl⟩

/-- Settles O54: the skeleton at index 7, with `AK_W` bytes and the resynchronization MAC. -/
theorem f5ssResult : Obligations.F5ssResult := by
  unfold Obligations.F5ssResult
  refine fun s key rand macs => ⟨?_, exec_of_suiteCommand (n := s.akW.toNat) (o := ⟨key, rand, none, none, some macs⟩) rfl⟩
  rw [List.append_assoc]
  exact decode_encode_of_isSuite (i := .f5ss key rand macs) rfl

end Sys2Proof.Machine
end

section
/-! SUPPORT. The input-mixing block (43_suite.md R163) byte by byte: what each of its overlays contributes to byte `i`. -/

namespace Sys2Proof.Machine

/-- The leading `n` bytes of `l`, laid from byte `k` on: byte `i` lies in them exactly if `k ≤ i < k + n`. -/
theorem overlay_take (k n i : Nat) (l : List Byte) :
    (if k ≤ i then (l.take n).getD (i - k) 0 else 0) = if k ≤ i ∧ i < k + n then l.getD (i - k) 0 else 0 := by
  rw [take_getD, ← ite_and]
  exact if_congr (by omega) rfl rfl

/-- At most `n` bytes laid from byte `k` on. -/
theorem overlay_of_length_le {n : Nat} (k i : Nat) {l : List Byte} (hl : l.length ≤ n) :
    (if k ≤ i then l.getD (i - k) 0 else 0) = if k ≤ i ∧ i < k + n then l.getD (i - k) 0 else 0 := by
  rw [← overlay_take, List.take_of_length_le hl]

/-- One byte laid at byte `k`. -/
theorem overlay_singleton (k i : Nat) (x : Byte) :
    (if k ≤ i then [x].getD (i - k) 0 else 0) = if i = k then x else 0 := by
  rw [overlay_of_length_le (n := 1) k i le_rfl]
  by_cases h : i = k
  · subst h; simp
  · rw [if_neg (by omega), if_neg h]

/-- An operand of `n` bytes that may be absent has at most `n` bytes. -/
theorem optBytes_length_le {n : Nat} (b : Option (Bytes n)) : (optBytes b).length ≤ n := by
  cases b <;> simp [optBytes]

/-- Settles O43: the block is six overlays of the zero block, and each overlay contributes to byte `i` what the rule says. -/
theorem inputMixingBlockBytes : Obligations.InputMixingBlockBytes := by
  unfold Obligations.InputMixingBlockBytes
  intro s idx metadata o i
  have hamf : (if 2 ≤ i.val then (optBytes o.amf).getD (i.val - 2) 0 else 0)
      = if 2 ≤ i.val ∧ i.val < 4 then (optBytes o.amf).getD (i.val - 2) 0 else 0 :=
    overlay_of_length_le 2 i.val (optBytes_length_le o.amf)
  simp only [inBlock, byte0, Fin.getElem_fin, xorAt_getElem, zeros_getElem, overlay_singleton, overlay_take, hamf]
  simp only [BitVec.ofNat_eq_ofNat, BitVec.zero_xor]

end Sys2Proof.Machine
end

section
/-! SUPPORT. Why a command faults (60_exceptions.md R193, R194, R197), and that a fault answers with its cause's code and has no
other effect (R196); the same for the decode faults (R191, R192). -/

namespace Sys2Proof.Machine

/-! ## Decode faults (R191, R192) -/

/-- A descriptor that does not decode is answered with its decode fault, which is precise (R196). -/
theorem step_of_decode_error {s : State} {d : List Byte} {rest : List HostEvent} {e : DecodeError}
    (h : s.host = .command d :: rest) (hd : decode d = .error e) :
    step s = .next (afterFault (withHost s rest) (decodeStatus e)) := by
  rw [step_command h, hd, ← raise_eq_afterFault]

/-- Settles O7: the three cases of R78 in which `decode` ends in a fault, the length of the third being that of the opcode's row. -/
theorem decodeFaultsAreAnswered : Obligations.DecodeFaultsAreAnswered := by
  unfold Obligations.DecodeFaultsAreAnswered
  refine fun s d rest h => ⟨?reserved, ?empty, ?length⟩
  case reserved =>
    rintro op tl rfl hres
    exact step_of_decode_error h (decode_of_mnemonicOf_none tl (mnemonicOf_of_no_row op (opcodeRow_of_reserved op hres)))
  case empty =>
    rintro rfl
    exact step_of_decode_error h rfl
  case length =>
    rintro op tl row rfl hrow hlen
    obtain ⟨hm, hreq⟩ := mnemonicOf_of_opcodeRow hrow
    exact step_of_decode_error h (decode_of_wrong_length hm (hreq ▸ hlen))

/-! ## The skeleton of a suite command (43_suite.md R180) -/

/-- The two suite commands that check `F1_HI` (43_suite.md R166). -/
def isMac : Instr → Bool
  | .f1s _ _ _ _ => true
  | .f1 _ _ _ _ => true
  | _ => false

theorem execWith_of_isMac (P : Params) {i : Instr} (s : State) (hi : isMac i = true) :
    ∃ idx o, execWith P i s = .next (macCommand P idx o s) := by
  cases i with
  | f1s | f1 => exact ⟨_, _, rfl⟩
  | f2 | f3 | f4 | f5 | f5s | f5ss | ctxinit | wrctx | rdctx | deriveopc | encrypt => cases hi

theorem execWith_of_isSuite (P : Params) {i : Instr} (s : State) (hi : isSuite i = true) (hm : isMac i ≠ true) :
    ∃ idx metadata n o, execWith P i s = .next (suiteCommand P idx metadata n o s) := by
  cases i with
  | f1s | f1 => exact absurd rfl hm
  | f2 | f3 | f4 | f5 | f5s | f5ss => exact ⟨_, _, _, _, rfl⟩
  | ctxinit | wrctx | rdctx | deriveopc | encrypt => cases hi

theorem execWith_of_isSuite_of_not_ready (P : Params) {i : Instr} {s : State} (hi : isSuite i = true)
    (hl : s.lifecycle ≠ .ready) : execWith P i s = .next (afterFault s .errState) := by
  by_cases hm : isMac i = true
  · obtain ⟨idx, o, h⟩ := execWith_of_isMac P s hm
    rw [h, macCommand_of_not_ready P idx o hl]
  · obtain ⟨idx, metadata, n, o, h⟩ := execWith_of_isSuite P s hi hm
    rw [h, suiteCommand_of_not_ready P idx metadata n o hl]

/-! ## The causes of a command's fault -/

/-- Why a command faults in a state, and the code it answers: a register number (R194), then the lifecycle (R193), then the
configuration (R197). -/
inductive FaultCause (P : Params) (s : State) : Instr → Status → Prop
  | suiteState {i : Instr} (hi : isSuite i = true) (hl : s.lifecycle ≠ .ready) : FaultCause P s i .errState
  | macConfig {i : Instr} (hi : isMac i = true) (hl : s.lifecycle = .ready) (hf : ¬ F1HiOk P.widthAdj s) :
      FaultCause P s i .errConfig
  | wrctxReg {reg : Byte} (data : Bytes 32) (hreg : ¬ HostWritable reg) : FaultCause P s (.wrctx reg data) .errReg
  | wrctxState {reg : Byte} (data : Bytes 32) (hreg : HostWritable reg) (hl : s.lifecycle ≠ .setup) :
      FaultCause P s (.wrctx reg data) .errState
  | rdctxReg {reg : Byte} (hreg : ¬ AssignedReg reg) : FaultCause P s (.rdctx reg) .errReg
  | deriveopcState (key : Bytes 32) (hl : s.lifecycle ≠ .setup) : FaultCause P s (.deriveopc key) .errState
  | deriveopcConfig (key : Bytes 32) (hl : s.lifecycle = .setup) (hc : ¬ CfgOk s) :
      FaultCause P s (.deriveopc key) .errConfig

/-- A cause has its fault, which is precise (R196). -/
theorem execWith_of_faultCause {P : Params} {s : State} {i : Instr} {code : Status} (h : FaultCause P s i code) :
    execWith P i s = .next (afterFault s code) := by
  cases h with
  | suiteState hi hl => exact execWith_of_isSuite_of_not_ready P hi hl
  | macConfig hi hl hf =>
    obtain ⟨idx, o, h⟩ := execWith_of_isMac P s hi
    rw [h, macCommand, if_pos hl, if_neg hf, raise_eq_afterFault]
  | wrctxReg data hreg => exact exec_wrctx_of_not_hostWritable s data hreg
  | wrctxState data hreg hl => exact exec_wrctx_of_not_setup data hl hreg
  | rdctxReg hreg => exact exec_rdctx_of_not_assigned s hreg
  | deriveopcState key hl => exact congrArg _ (deriveopcWith_of_not_setup P key hl)
  | deriveopcConfig key hl hc => exact congrArg _ (deriveopcWith_of_not_cfgOk P key hl hc)

/-- A suite command in `READY` that has no cause to fault answers `OK`. -/
theorem faultCause_or_ok_of_isSuite (P : Params) {i : Instr} (s : State) (hi : isSuite i = true) :
    (∃ code, FaultCause P s i code) ∨ ∃ data, execWith P i s = .next (respond s .ok data) := by
  by_cases hm : isMac i = true
  · obtain ⟨idx, o, h⟩ := execWith_of_isMac P s hm
    rcases macCommand_cases P idx o s with ⟨_, _, hok⟩ | ⟨hl, hf, _⟩ | ⟨hl, _⟩
    · exact .inr ⟨_, hok ▸ h⟩
    · exact .inl ⟨_, .macConfig hm hl hf⟩
    · exact .inl ⟨_, .suiteState hi hl⟩
  · obtain ⟨idx, metadata, n, o, h⟩ := execWith_of_isSuite P s hi hm
    rcases suiteCommand_cases P idx metadata n o s with ⟨_, hok⟩ | ⟨hl, _⟩
    · exact .inr ⟨_, hok ▸ h⟩
    · exact .inl ⟨_, .suiteState hi hl⟩

/-- A command that has no cause to fault answers `OK`. -/
theorem faultCause_or_ok (P : Params) (i : Instr) (s : State) :
    (∃ code, FaultCause P s i code)
    ∨ ∃ u data, u.responses = s.responses ∧ execWith P i s = .next (respond u .ok data) := by
  cases i with
  | f1s | f1 | f2 | f3 | f4 | f5 | f5s | f5ss =>
    exact (faultCause_or_ok_of_isSuite P s rfl).imp_right fun ⟨data, h⟩ => ⟨s, data, rfl, h⟩
  | ctxinit => exact .inr ⟨freshContext s, [], rfl, rfl⟩
  | wrctx reg data =>
    by_cases hreg : HostWritable reg
    · by_cases hl : s.lifecycle = .setup
      · obtain ⟨u, hu⟩ := Option.isSome_iff_exists.1 ((hostWrite_regOf_isSome_iff s reg data).2 hreg)
        have heffect : Effect P (.wrctx reg data) s u := ⟨hl, hu⟩
        obtain ⟨_, hresponses, _⟩ := effect_host_responses heffect
        exact .inr ⟨u, [], hresponses, respond_eq_afterOk u [] ▸ exec_wrctx_of_setup hl hu⟩
      · exact .inl ⟨_, .wrctxState data hreg hl⟩
    · exact .inl ⟨_, .wrctxReg data hreg⟩
  | rdctx reg =>
    cases hr : regOf reg with
    | none => exact .inl ⟨_, .rdctxReg ((regOf_eq_none_iff reg).1 hr)⟩
    | some r => exact .inr ⟨s, readReg s r, rfl, respond_eq_afterOk s _ ▸ exec_rdctx_of_regOf s hr⟩
  | deriveopc key =>
    by_cases hl : s.lifecycle = .setup
    · by_cases hc : CfgOk s
      · refine .inr ⟨{ s with opc := derivedOpc P.aes s key, lifecycle := .ready }, [], rfl, ?_⟩
        exact congrArg _ ((deriveopcWith_of_cfgOk P key hl hc).trans (respond_eq_afterOk _ _).symm)
      · exact .inl ⟨_, .deriveopcConfig key hl hc⟩
    · exact .inl ⟨_, .deriveopcState key hl⟩
  | encrypt key block => exact .inr ⟨s, _, rfl, rfl⟩

/-- A command that answers a code other than `OK` had a cause to. -/
theorem faultCause_of_answer {P : Params} {i : Instr} {s t : State} {r : Response} (h : execWith P i s = .next t)
    (hr : t.responses = s.responses ++ [r]) (hne : r.status ≠ .ok) : FaultCause P s i r.status := by
  rcases faultCause_or_ok P i s with ⟨code, hcause⟩ | ⟨u, data, hu, hok⟩
  · obtain rfl : afterFault s code = t := Host.Outcome.next.inj ((execWith_of_faultCause hcause).symm.trans h)
    obtain rfl : mkResponse code [] = r := by simpa using hr
    exact hcause
  · obtain rfl : respond u .ok data = t := Host.Outcome.next.inj (hok.symm.trans h)
    obtain rfl : mkResponse .ok data = r := by simpa [hu] using hr
    exact absurd rfl hne

/-! ## The statements -/

/-- Settles O19: the fault had a cause, and a cause has its fault with no other effect. -/
theorem faultsArePrecise : Obligations.FaultsArePrecise := by
  unfold Obligations.FaultsArePrecise
  intro i s t r h hr hne
  rw [exec_eq_execWith] at h
  exact Host.Outcome.next.inj (h.symm.trans (execWith_of_faultCause (faultCause_of_answer h hr hne)))

/-- Settles O21: the causes of `ERR_STATE` are the entries of the matrix. -/
theorem lifecycleMatrix : Obligations.LifecycleMatrix := by
  unfold Obligations.LifecycleMatrix
  rw [exec_eq_execWith]
  refine fun s => ⟨fun hl i hi => execWith_of_faultCause (.suiteState hi hl),
    fun hl key => execWith_of_faultCause (.deriveopcState key hl),
    fun hl reg data hreg => execWith_of_faultCause (.wrctxState data hreg hl), fun i t r h hr hstatus => ?_⟩
  have hcause : FaultCause engineParams s i .errState :=
    hstatus ▸ faultCause_of_answer h hr (by rw [hstatus]; decide)
  cases hcause with
  | suiteState hi hl => exact .inl ⟨hi, hl⟩
  | wrctxState data _ hl => exact .inr (.inr ⟨⟨_, data, rfl⟩, hl⟩)
  | deriveopcState key hl => exact .inr (.inl ⟨⟨key, rfl⟩, hl⟩)

/-- Settles O22: `RDCTX` and `WRCTX` check the register number and nothing before it (R195). -/
theorem registerNumberFaults : Obligations.RegisterNumberFaults := by
  unfold Obligations.RegisterNumberFaults
  exact fun s reg => ⟨exec_rdctx_of_not_assigned s, fun hreg data => exec_wrctx_of_not_hostWritable s data hreg⟩

end Sys2Proof.Machine
end

section
/-! SUPPORT. The decoder and the encoder are inverse to each other (30_encoding.md sections 1 and 2). -/

namespace Sys2Proof

/-! ## From command to descriptor and back -/

/-- Settles O1: the descriptor of each command has the length its opcode requires, and the fields cut from it are the operands it
was laid out from. -/
theorem encodeThenDecodeGivesTheCommand : Obligations.EncodeThenDecodeGivesTheCommand := by
  unfold Obligations.EncodeThenDecodeGivesTheCommand
  intro i
  cases i with
  | f1s | f1 | f2 | f3 | f4 | f5 | f5s | f5ss => exact Machine.decode_encode_of_isSuite rfl
  | ctxinit => exact Machine.decode_ctxinit
  | wrctx reg data => exact Machine.decode_wrctx reg data
  | rdctx reg => exact Machine.decode_rdctx reg
  | deriveopc key => exact Machine.decode_deriveopc key
  | encrypt key block => exact Machine.decode_encrypt key block

/-- A descriptor that decodes has an opcode and the length of its mnemonic, and its command is the one its fields make (R78). -/
theorem exists_cutFields_of_decode {d : List Byte} {i : Instr} (h : decode d = .ok i) :
    ∃ m rest, d = opcodeByte m :: rest ∧ (opcodeByte m :: rest).length = requiredLength m
      ∧ i = cutFields m (opcodeByte m :: rest) := by
  cases d with
  | nil => cases h
  | cons op rest =>
    cases hm : mnemonicOf op with
    | none => rw [decode_of_mnemonicOf_none rest hm] at h; cases h
    | some m =>
      by_cases hlen : (op :: rest).length = requiredLength m
      · rw [decode_of_right_length hm hlen] at h
        obtain rfl := mnemonicOf_eq_some hm
        exact ⟨m, rest, rfl, hlen, (Except.ok.inj h).symm⟩
      · rw [decode_of_wrong_length hm hlen] at h; cases h

/-- Settles O2: a command that was decoded is made of the fields of its descriptor, and those laid out again are the descriptor. -/
theorem decodeThenEncodeGivesTheDescriptor : Obligations.DecodeThenEncodeGivesTheDescriptor := by
  unfold Obligations.DecodeThenEncodeGivesTheDescriptor
  intro d i h
  obtain ⟨m, rest, rfl, hlen, rfl⟩ := exists_cutFields_of_decode h
  exact encode_cutFields hlen

/-! ## Descriptors written out -/

/-- Settles O4: seven descriptors, each decoded by evaluation. -/
theorem specDescriptorsDecode : Obligations.SpecDescriptorsDecode := by
  unfold Obligations.SpecDescriptorsDecode
  decide

end Sys2Proof
end

section
/-! SUPPORT. The pseudo-instructions of the assembler (30_encoding.md R81). -/

namespace Sys2Proof.Machine

/-- The decimal digits of a byte are read back as the byte. -/
theorem decimalByte_toDigits : ∀ n : Byte, decimalByte (Nat.toDigits 10 n.toNat) = some n := by decide +kernel

/-- The names of the width registers are all different, so each is looked up to its own number. -/
theorem lookupName_asmWidthNames : ∀ row ∈ asmWidthNames, lookupName asmWidthNames row.1 = some row.2 := by decide

/-- Settles O5: `SETOP` and `SETW` read their operands with `asmField`, the table of names and `decimalByte`; the two others have no
operand. -/
theorem pseudoInstructionsExpand : Obligations.PseudoInstructionsExpand := by
  unfold Obligations.PseudoInstructionsExpand
  refine ⟨fun text data h => ?_, fun row hrow n => ?_, rfl, rfl⟩
  · simp [asmExpand, h]
  · simp [asmExpand, lookupName_asmWidthNames row hrow, decimalByte_toDigits n]

end Sys2Proof.Machine
end

section
/-! SUPPORT. What a step can do, at any parameters of the machine: it idles, resets, or answers one command; and what holds of every
answer (30_encoding.md R76) and of every run (70_reset_and_hazards.md R218). -/

namespace Sys2Proof.Machine

/-! ## The cases of a step -/

/-- With a descriptor handed over a step raises a fault with no other effect, or takes the effect of the decoded command and answers
`OK`. -/
theorem stepWith_command_cases (P : Params) {s : State} {d : List Byte} {rest : List HostEvent}
    (h : s.host = .command d :: rest) :
    (∃ code, code ≠ .ok ∧ stepWith P s = .next (raise (withHost s rest) code))
    ∨ ∃ i u data, data.length ≤ 32 ∧ Effect P i (withHost s rest) u ∧ stepWith P s = .next (respond u .ok data) := by
  rw [stepWith, stepBy_command h]
  cases decode d with
  | error e => exact .inl ⟨decodeStatus e, by cases e <;> decide, rfl⟩
  | ok i => exact (execWith_cases P i (withHost s rest)).imp_right fun hok => ⟨i, hok⟩

theorem step_command_cases {s : State} {d : List Byte} {rest : List HostEvent} (h : s.host = .command d :: rest) :
    (∃ code, code ≠ .ok ∧ step s = .next (raise (withHost s rest) code))
    ∨ ∃ i u data, data.length ≤ 32 ∧ Effect engineParams i (withHost s rest) u
      ∧ step s = .next (respond u .ok data) := by
  rw [step_eq_stepWith]
  exact stepWith_command_cases engineParams h

/-- A step that runs a decoded command, at any parameters. -/
theorem stepWith_of_decode (P : Params) {s : State} {d : List Byte} {rest : List HostEvent} {i : Instr}
    (h : s.host = .command d :: rest) (hd : decode d = .ok i) : stepWith P s = execWith P i (withHost s rest) := by
  rw [stepWith, stepBy_command h, hd]

/-- Settles O6: the case of `step` in which the descriptor decodes. -/
theorem stepRunsTheDecodedCommand : Obligations.StepRunsTheDecodedCommand := by
  unfold Obligations.StepRunsTheDecodedCommand
  intro s d rest i h hd
  rw [step_command h, hd]

/-- Settles O8: the two cases of `step` in which no descriptor is handed over. -/
theorem stepWithoutACommand : Obligations.StepWithoutACommand := by
  unfold Obligations.StepWithoutACommand
  exact fun s => ⟨step_idle, fun rest h => ⟨_, step_reset h, reset_contextZero, rfl, rfl, rfl, rfl⟩⟩

/-! ## Responses -/

/-- What R76 says of every response: 34 bytes, `LEN` at most 32, `DATA` zero from `LEN` on, and no data on a fault. -/
def ResponseWellFormed (r : Response) : Prop :=
  (responseBytes r).length = 34 ∧ r.len.toNat ≤ 32 ∧ (∀ k : Fin 32, r.len.toNat ≤ k.val → r.data[k] = 0)
  ∧ (r.status ≠ .ok → r.len = 0 ∧ r.data = zeros 32)

/-- Data that fits makes a well-formed response, if there is none with a fault. -/
theorem responseWellFormed_mkResponse {status : Status} {data : List Byte} (hlen : data.length ≤ 32)
    (hfault : status ≠ .ok → data = []) : ResponseWellFormed (mkResponse status data) := by
  have hnat : (mkResponse status data).len.toNat = data.length := by
    simp only [mkResponse_len, BitVec.toNat_ofNat]
    omega
  refine ⟨responseBytes_length _, hnat ▸ hlen, fun k hk => ?_, fun hne => ?_⟩
  · rw [hnat] at hk
    simp [hk]
  · rw [mkResponse_status] at hne
    simp [hfault hne]

/-- Settles O9: a fault answers without data, a command that completes with at most 32 bytes. -/
theorem everyCommandGetsOneResponse : Obligations.EveryCommandGetsOneResponse := by
  unfold Obligations.EveryCommandGetsOneResponse
  intro s d rest h
  rcases step_command_cases h with ⟨code, _, hstep⟩ | ⟨i, u, data, hlen, heffect, hstep⟩
  · exact ⟨_, mkResponse code [], hstep, rfl, rfl, responseWellFormed_mkResponse (by simp) fun _ => rfl⟩
  · obtain ⟨hhost, hresponses, _⟩ := effect_host_responses heffect
    exact ⟨_, mkResponse .ok data, hstep, hhost, congrArg (· ++ _) hresponses,
      responseWellFormed_mkResponse hlen fun hne => absurd rfl hne⟩

/-- A step takes one input, and delivers one response if the input is a descriptor. -/
theorem step_takes_input {s : State} {e : HostEvent} {rest : List HostEvent} (h : s.host = e :: rest) :
    ∃ t, step s = .next t ∧ t.host = rest
      ∧ t.responses.length + commandCount t.host = s.responses.length + commandCount s.host := by
  cases e with
  | reset => exact ⟨_, step_reset h, rfl, by simp [h, commandCount]⟩
  | command d =>
    obtain ⟨t, r, hstep, hhost, hresponses, _⟩ := everyCommandGetsOneResponse s d rest h
    refine ⟨t, hstep, hhost, ?_⟩
    simp only [hhost, hresponses, h, commandCount, List.length_append, List.length_singleton]
    omega

/-- A run of as many steps as there are inputs takes them all, and delivers a response for each descriptor among them. -/
theorem run_takes_all_inputs (inputs : List HostEvent) (s : State) (h : s.host = inputs) :
    ∃ t : State, Host.Core.run Sys2Proof.core inputs.length s = .next t ∧ t.host = []
      ∧ t.responses.length = s.responses.length + commandCount inputs := by
  induction inputs generalizing s with
  | nil => exact ⟨s, rfl, h, rfl⟩
  | cons e rest ih =>
    obtain ⟨u, hstep, hhost, hcount⟩ := step_takes_input h
    obtain ⟨t, hrun, hdone, hresponses⟩ := ih u hhost
    rw [hhost, h] at hcount
    refine ⟨t, ?_, hdone, hresponses.trans hcount⟩
    have hcore : Sys2Proof.core.step s = .next u := hstep
    simp only [List.length_cons, Host.Core.run, hcore, hrun]

/-- Settles O10, by induction on the inputs. -/
theorem everyRunEnds : Obligations.EveryRunEnds := by
  unfold Obligations.EveryRunEnds
  exact fun s => run_takes_all_inputs s.host s rfl

/-! ## `FAULT` -/

/-- An answer `OK` records nothing. -/
@[simp] theorem recordFault_of_ok (old : Status) : recordFault old .ok = old := by
  by_cases h : old = .ok
  · rw [h]; rfl
  · exact recordFault_of_ne h .ok

/-- Settles O18: `FAULT` takes in a response's status as the first fault of the longer list of responses does. -/
theorem faultRegisterHoldsTheFirstFault : Obligations.FaultRegisterHoldsTheFirstFault := by
  unfold Obligations.FaultRegisterHoldsTheFirstFault
  intro s t d rest hfault h ht
  rcases step_command_cases h with ⟨code, _, hstep⟩ | ⟨i, u, data, _, heffect, hstep⟩ <;>
    obtain rfl := Host.Outcome.next.inj (hstep.symm.trans ht)
  · simp [firstFault_append, ← hfault]
  · obtain ⟨_, hresponses, hu⟩ := effect_host_responses heffect
    simp [firstFault_append, hresponses, hu, ← hfault]

end Sys2Proof.Machine
end

section
/-! SUPPORT. The invariant of the engine's runs (10_state.md R22, R23, R46, R49), kept by every step at any parameters of the
machine. -/

namespace Sys2Proof.Machine

/-! ## What leaves the context as it is -/

theorem sameContext_raise (s : State) (code : Status) : SameContext s (raise s code) := SameContext.refl s

theorem sameContext_respond (s : State) (status : Status) (data : List Byte) : SameContext s (respond s status data) :=
  SameContext.refl s

theorem sameContext_withHost (s : State) (rest : List HostEvent) : SameContext s (withHost s rest) := SameContext.refl s

/-! ## The invariant -/

/-- Settles O12: the context is zero in `UNINIT`, which is where reset leaves the engine. -/
theorem resetMeetsTheInvariant : Obligations.ResetMeetsTheInvariant :=
  ⟨fun _ => reset_contextZero, fun h => Lifecycle.noConfusion h, fun h => Lifecycle.noConfusion h⟩

/-- The invariant of a state in `SETUP`. -/
theorem engineInv_of_setup {s : State} (hl : s.lifecycle = .setup) (hopc : s.opc = zeros 32) (hc : s.c = personalization) :
    EngineInv s := by
  simp [EngineInv, hl, hopc, hc]

/-- The invariant of a state in `READY`. -/
theorem engineInv_of_ready {s : State} (hl : s.lifecycle = .ready) (hc : s.c = personalization) (hcfg : CfgOk s) :
    EngineInv s :=
  ⟨fun h => absurd (hl.symm.trans h) (by decide), fun h => absurd (hl.symm.trans h) (by decide), fun _ => ⟨hc, hcfg⟩⟩

/-- What a command does before it answers keeps the invariant: a context is created with the constants and `OPC` zero, a host write
in `SETUP` touches neither, and `DERIVEOPC` checks the widths. -/
theorem effect_keeps_inv {P : Params} {i : Instr} {s u : State} (h : Effect P i s u) (hs : EngineInv s) : EngineInv u := by
  have ⟨_, hsetup, _⟩ := hs
  cases i with
  | ctxinit => rw [show u = freshContext s from h]; exact engineInv_of_setup rfl rfl rfl
  | wrctx reg data =>
    obtain ⟨hl, hw⟩ := h
    obtain ⟨hopc, hc⟩ := hsetup hl
    rcases hostWrite_cases hw with ⟨_, rfl⟩ | ⟨w, _, rfl⟩
    · exact engineInv_of_setup hl hopc hc
    · exact engineInv_of_setup (by simp [hl]) (by simp [hopc]) (by simp [hc])
  | deriveopc key =>
    obtain ⟨hl, hcfg, rfl⟩ := h
    exact engineInv_of_ready rfl (hsetup hl).2 hcfg
  | f1s | f1 | f2 | f3 | f4 | f5 | f5s | f5ss | rdctx | encrypt =>
    rwa [effect_of_isReadOnly rfl h]

/-- At any parameters a step idles, resets, raises a fault or takes a command's effect, and each keeps the invariant. -/
theorem stepWith_keeps_inv (P : Params) {s t : State} (hs : EngineInv s) (ht : stepWith P s = .next t) : EngineInv t := by
  match hhost : s.host with
  | [] =>
    obtain rfl := Host.Outcome.next.inj ((stepBy_idle hhost).symm.trans ht)
    exact hs
  | .reset :: rest =>
    obtain rfl := Host.Outcome.next.inj ((stepBy_reset hhost).symm.trans ht)
    exact resetMeetsTheInvariant
  | .command d :: rest =>
    have hrest : EngineInv (withHost s rest) := EngineInv.of_sameContext (sameContext_withHost s rest) hs
    rcases stepWith_command_cases P hhost with ⟨code, _, hstep⟩ | ⟨i, u, data, _, heffect, hstep⟩ <;>
      obtain rfl := Host.Outcome.next.inj (hstep.symm.trans ht)
    · exact EngineInv.of_sameContext (sameContext_raise _ code) hrest
    · exact EngineInv.of_sameContext (sameContext_respond u .ok data) (effect_keeps_inv heffect hrest)

/-- Settles O13: the engine's step is the machine's at the engine's parameters. -/
theorem everyStepKeepsTheInvariant : Obligations.EveryStepKeepsTheInvariant := by
  unfold Obligations.EveryStepKeepsTheInvariant
  intro s t hs ht
  rw [step_eq_stepWith] at ht
  exact stepWith_keeps_inv engineParams hs ht

end Sys2Proof.Machine
end

section
/-! SUPPORT. What commands leave unchanged: who writes which register (10_state.md R43), the frozen context of `READY` (R41), and the
reading commands, whose answers depend on few registers (20_memory.md R58, R60, 10_state.md R21). -/

namespace Sys2Proof.Machine

/-! ## Who writes which register -/

/-- The number of a width register (R43). -/
def widthNumber : WidthReg → Byte
  | .keyW => 0x10
  | .resW => 0x11
  | .ckW => 0x12
  | .ikW => 0x13
  | .macW => 0x14
  | .nonceW => 0x15
  | .sqnW => 0x16
  | .akW => 0x17

theorem eq_widthNumber_of_regOf {reg : Byte} {w : WidthReg} (h : regOf reg = some (.width w)) : reg = widthNumber w := by
  revert reg; cases w <;> decide +kernel

theorem eq_zero_of_regOf_op : ∀ reg : Byte, regOf reg = some .op → reg = 0x00 := by decide +kernel

/-- What a command of the engine has done that answered `t`. -/
theorem exec_next_cases {i : Instr} {s t : State} (h : exec i s = .next t) :
    (∃ code, code ≠ .ok ∧ t = raise s code) ∨ ∃ u data, Effect engineParams i s u ∧ t = respond u .ok data := by
  rcases exec_cases i s with ⟨code, hne, hexec⟩ | ⟨u, data, _, heffect, hexec⟩
  · exact .inl ⟨code, hne, Host.Outcome.next.inj (h.symm.trans hexec)⟩
  · exact .inr ⟨u, data, heffect, Host.Outcome.next.inj (h.symm.trans hexec)⟩

/-- Settles O14: a fault writes `FAULT` alone, and each command that completes has the effect the clauses allow it. -/
theorem registersAreWrittenOnlyByTheirWriters : Obligations.RegistersAreWrittenOnlyByTheirWriters := by
  unfold Obligations.RegistersAreWrittenOnlyByTheirWriters
  intro i s t ht
  rcases exec_next_cases ht with ⟨code, hne, rfl⟩ | ⟨u, data, heffect, rfl⟩
  · exact ⟨absurd rfl, absurd rfl, absurd rfl, absurd rfl, absurd rfl, absurd rfl, absurd rfl, absurd rfl, absurd rfl,
      absurd rfl, absurd rfl, absurd rfl, fun _ => ⟨code, hne, raise_eq_afterFault s code⟩, rfl⟩
  · cases i with
    | ctxinit => rw [show u = freshContext s from heffect]; simp
    | wrctx reg data =>
      rcases hostWrite_cases heffect.2 with ⟨hreg, rfl⟩ | ⟨w, hreg, rfl⟩
      · simp [eq_zero_of_regOf_op reg hreg]
      · rw [eq_widthNumber_of_regOf hreg]
        cases w <;> simp [writeWidth, widthNumber]
    | deriveopc key => obtain ⟨_, _, rfl⟩ := heffect; simp
    | f1s | f1 | f2 | f3 | f4 | f5 | f5s | f5ss | rdctx | encrypt => simp [effect_of_isReadOnly rfl heffect]

/-! ## `READY` -/

/-- In `READY` only `CTXINIT` has an effect when it completes. -/
theorem effect_of_ready {P : Params} {i : Instr} {s u : State} (hl : s.lifecycle = .ready) (hi : i ≠ .ctxinit)
    (h : Effect P i s u) : u = s := by
  cases i with
  | ctxinit => exact absurd rfl hi
  | wrctx reg data => exact absurd (hl.symm.trans h.1) (by decide)
  | deriveopc key => exact absurd (hl.symm.trans h.1) (by decide)
  | f1s | f1 | f2 | f3 | f4 | f5 | f5s | f5ss | rdctx | encrypt => exact effect_of_isReadOnly rfl h

/-- Settles O15: in `READY` the commands other than `CTXINIT` fault or have no effect, and then they answer. -/
theorem readyContextIsFrozen : Obligations.ReadyContextIsFrozen := by
  unfold Obligations.ReadyContextIsFrozen
  intro i s t hl hi ht
  rcases exec_next_cases ht with ⟨code, _, rfl⟩ | ⟨u, data, heffect, rfl⟩
  · exact sameContext_raise s code
  · rw [effect_of_ready hl hi heffect]
    exact sameContext_respond s .ok data

/-! ## Reading commands -/

/-- Settles O16: a reading command raises a fault or answers in the state it found. -/
theorem readingCommandsWriteNoRegister : Obligations.ReadingCommandsWriteNoRegister := by
  unfold Obligations.ReadingCommandsWriteNoRegister
  intro i s t hi ht
  rcases exec_next_cases ht with ⟨code, hne, rfl⟩ | ⟨u, data, heffect, rfl⟩
  · exact ⟨sameContext_raise s code, rfl, mkResponse code [], rfl, fun hok => absurd hok hne⟩
  · rw [effect_of_isReadOnly hi heffect]
    exact ⟨sameContext_respond s .ok data, rfl, mkResponse .ok data, rfl, fun _ => rfl⟩

/-- Run in two states, a reading command raises the same fault or answers the same data, and changes nothing else. -/
def SameAnswer (run : State → Host.Outcome State Fault Refusal) (s s' : State) : Prop :=
  (∃ code, code ≠ .ok ∧ run s = .next (raise s code) ∧ run s' = .next (raise s' code))
  ∨ ∃ data, run s = .next (respond s .ok data) ∧ run s' = .next (respond s' .ok data)

/-- A command whose arm is the skeleton of the suite commands in both states, which differ in `OP` and the responses only. -/
theorem sameAnswer_of_suiteCommand {P : Params} {run : State → Host.Outcome State Fault Refusal} {idx : Fin 8}
    {metadata n : Nat} {o : SuiteOperands} {s s' : State} {op' : Bytes 32} {rs : List Response}
    (hs' : s' = { s with op := op', responses := rs }) (h : run s = .next (suiteCommand P idx metadata n o s))
    (h' : run s' = .next (suiteCommand P idx metadata n o s')) : SameAnswer run s s' := by
  subst hs'
  rcases suiteCommand_cases P idx metadata n o s with ⟨hl, hok⟩ | ⟨hl, hfault⟩
  · exact .inr ⟨_, hok ▸ h, h'.trans (congrArg _ (if_pos hl))⟩
  · exact .inl ⟨.errState, by decide, hfault ▸ h, h'.trans (congrArg _ (if_neg hl))⟩

/-- The same for the skeleton of `F1S` and `F1`. -/
theorem sameAnswer_of_macCommand {P : Params} {run : State → Host.Outcome State Fault Refusal} {idx : Fin 8}
    {o : SuiteOperands} {s s' : State} {op' : Bytes 32} {rs : List Response}
    (hs' : s' = { s with op := op', responses := rs }) (h : run s = .next (macCommand P idx o s))
    (h' : run s' = .next (macCommand P idx o s')) : SameAnswer run s s' := by
  subst hs'
  rcases macCommand_cases P idx o s with ⟨hl, hf, hok⟩ | ⟨hl, hf, hfault⟩ | ⟨hl, hfault⟩
  · exact .inr ⟨_, hok ▸ h, h'.trans (congrArg _ ((if_pos hl).trans (if_pos hf)))⟩
  · exact .inl ⟨.errConfig, by decide, hfault ▸ h, h'.trans (congrArg _ ((if_pos hl).trans (if_neg hf)))⟩
  · exact .inl ⟨.errState, by decide, hfault ▸ h, h'.trans (congrArg _ (if_neg hl))⟩

/-- A suite command reads neither `OP` nor the responses delivered. -/
theorem sameAnswer_of_isSuite {i : Instr} (hi : isSuite i = true) (s : State) (op' : Bytes 32) (rs : List Response) :
    SameAnswer (exec i) s { s with op := op', responses := rs } := by
  cases i with
  | f1s | f1 => exact sameAnswer_of_macCommand rfl rfl rfl
  | f2 | f3 | f4 | f5 | f5s | f5ss => exact sameAnswer_of_suiteCommand rfl rfl rfl
  | ctxinit | wrctx | rdctx | deriveopc | encrypt => cases hi

/-- `ENCRYPT` reads no register at all. -/
theorem sameAnswer_encrypt (key block : Bytes 32) (s s' : State) : SameAnswer (exec (.encrypt key block)) s s' :=
  .inr ⟨_, exec_encrypt key block s, exec_encrypt key block s'⟩

/-- No reading command depends on the responses delivered. -/
theorem sameAnswer_of_isReadOnly {i : Instr} (hi : isReadOnly i = true) (s : State) (rs : List Response) :
    SameAnswer (exec i) s { s with responses := rs } := by
  cases i with
  | f1s | f1 | f2 | f3 | f4 | f5 | f5s | f5ss => exact sameAnswer_of_isSuite rfl s s.op rs
  | encrypt key block => exact sameAnswer_encrypt key block s _
  | rdctx reg =>
    cases hr : regOf reg with
    | none => exact .inl ⟨.errReg, by decide, by simp [exec, execRdctx, hr], by simp [exec, execRdctx, hr]⟩
    | some r =>
      refine .inr ⟨readReg s r, by simp [exec, execRdctx, hr], ?_⟩
      cases r with
      | width w => cases w <;> simp [exec, execRdctx, hr, readReg, readWidth]
      | op | opc | constant | lifecycle | fault => simp [exec, execRdctx, hr, readReg]
  | ctxinit | wrctx | deriveopc => cases hi

/-- A command that answers `OK` in one of the two states changes nothing but the list of responses in either. -/
theorem SameAnswer.of_ok {run : State → Host.Outcome State Fault Refusal} {s s' t : State} {r : Response}
    (h : SameAnswer run s s') (ht : run s = .next t) (hr : t.responses = s.responses ++ [r]) (hok : r.status = .ok) :
    t = { s with responses := s.responses ++ [r] }
      ∧ run s' = .next { s' with responses := s'.responses ++ [r] } := by
  rcases h with ⟨code, hne, hs, _⟩ | ⟨data, hs, hs'⟩ <;> obtain rfl := Host.Outcome.next.inj (hs.symm.trans ht)
  · obtain rfl : mkResponse code [] = r := by simpa using hr
    exact absurd hok hne
  · obtain rfl : mkResponse .ok data = r := by simpa using hr
    exact ⟨rfl, hs'⟩

/-- Settles O17: each command answers after the other as it does before it. -/
theorem readingCommandsCommute : Obligations.ReadingCommandsCommute := by
  unfold Obligations.ReadingCommandsCommute
  intro i j s ti tj ri rj hi hj hexeci hri hoki hexecj hrj hokj
  obtain ⟨rfl, hij⟩ := (sameAnswer_of_isReadOnly hi s (s.responses ++ [rj])).of_ok hexeci hri hoki
  obtain ⟨rfl, hji⟩ := (sameAnswer_of_isReadOnly hj s (s.responses ++ [ri])).of_ok hexecj hrj hokj
  exact ⟨by simpa using hji, by simpa using hij⟩

/-- Settles O56: with another `OP` the command raises the same fault or answers the same data. -/
theorem suiteAndEncryptNeverReadOp : Obligations.SuiteAndEncryptNeverReadOp := by
  unfold Obligations.SuiteAndEncryptNeverReadOp
  intro i s t op' hi ht
  have hsame : SameAnswer (exec i) s { s with op := op' } := by
    rcases hi with hsuite | ⟨key, block, rfl⟩
    · exact sameAnswer_of_isSuite hsuite s op' s.responses
    · exact sameAnswer_encrypt key block s _
  rcases hsame with ⟨code, _, hs, hs'⟩ | ⟨data, hs, hs'⟩ <;> obtain rfl := Host.Outcome.next.inj (hs.symm.trans ht)
  · exact hs'
  · exact hs'

end Sys2Proof.Machine
end

section
/-! SUPPORT. `ERR_CONFIG` (60_exceptions.md R197) and the codes (R190, 10_state.md R41). -/

namespace Sys2Proof.Machine

/-- Settles O20: the two tables, row by row. -/
theorem statusAndLifecycleCodes : Obligations.StatusAndLifecycleCodes :=
  ⟨rfl, rfl, rfl, rfl, rfl, rfl, rfl, rfl, rfl⟩

theorem exists_of_isMac {i : Instr} (hi : isMac i = true) :
    ∃ key rand amf sqn, i = .f1s key rand amf sqn ∨ i = .f1 key rand amf sqn := by
  cases i with
  | f1s key rand amf sqn => exact ⟨key, rand, amf, sqn, .inl rfl⟩
  | f1 key rand amf sqn => exact ⟨key, rand, amf, sqn, .inr rfl⟩
  | f2 | f3 | f4 | f5 | f5s | f5ss | ctxinit | wrctx | rdctx | deriveopc | encrypt => cases hi

/-- Settles O23: the causes of `ERR_CONFIG` are the two the rule lists. -/
theorem configurationFaults : Obligations.ConfigurationFaults := by
  unfold Obligations.ConfigurationFaults
  rw [exec_eq_execWith]
  refine fun s => ⟨fun hl hc key => execWith_of_faultCause (.deriveopcConfig key hl hc), fun hl hf key rand amf sqn =>
    ⟨execWith_of_faultCause (.macConfig rfl hl hf), execWith_of_faultCause (.macConfig rfl hl hf)⟩,
    fun i t r h hr hstatus => ?_⟩
  have hcause : FaultCause engineParams s i .errConfig :=
    hstatus ▸ faultCause_of_answer h hr (by rw [hstatus]; decide)
  cases hcause with
  | macConfig hi hl hf => exact .inr ⟨hl, hf, exists_of_isMac hi⟩
  | deriveopcConfig key hl hc => exact .inl ⟨hl, hc, key, rfl⟩

end Sys2Proof.Machine
end

section
/-! SUPPORT. The context commands one after the other, and the values `DERIVEOPC` is computed from (42_context.md R145, R146,
43_suite.md R161). -/

namespace Sys2Proof.Machine

/-! ## Read after write (20_memory.md R59) -/

@[simp] theorem readWidth_afterOk (s : State) (data : List Byte) (w : WidthReg) :
    readWidth (afterOk s data) w = readWidth s w := by
  cases w <;> rfl

/-- Settles O27: a writable number names `OP` or a width register, and each reads back what was written. -/
theorem readAfterWriteReturnsTheValue : Obligations.ReadAfterWriteReturnsTheValue := by
  unfold Obligations.ReadAfterWriteReturnsTheValue
  intro s reg data hl hreg
  obtain ⟨u, hw⟩ := Option.isSome_iff_exists.1 ((hostWrite_regOf_isSome_iff s reg data).2 hreg)
  refine ⟨_, exec_wrctx_of_setup hl hw, ?_⟩
  rcases hostWrite_cases hw with ⟨hr, rfl⟩ | ⟨w, hr, rfl⟩
  · rw [exec_rdctx_of_regOf _ hr, if_pos (eq_zero_of_regOf_op reg hr)]
    rfl
  · have hne : reg ≠ 0x00 := by rintro rfl; cases hr
    rw [exec_rdctx_of_regOf _ hr, if_neg hne]
    simp only [readReg, readWidth_afterOk, readWidth_writeWidth]

/-! ## The padded key and the domain-separation vector -/

/-- A byte string extended to `n` bytes is itself and as many zeros as are missing. -/
theorem toList_padRight {n : Nat} {l : List Byte} (h : l.length ≤ n) :
    (padRight n l).toList = l ++ List.replicate (n - l.length) 0 := by
  refine List.ext_getElem (by simp; omega) fun i h1 h2 => ?_
  rw [Vector.getElem_toList, padRight_getElem n l i (by simpa using h1), List.getElem_append]
  split
  · next hi => exact List.getD_eq_getElem _ _ hi
  · next hi => rw [List.getElem_replicate, List.getD_eq_default _ _ (by omega)]

/-- `KEY_W >> 5` below 32. -/
theorem keyW_shiftRight_of_lt {s : State} (h : s.keyW.toNat < 32) : s.keyW.toNat >>> 5 = 0 := by
  rw [Nat.shiftRight_eq_div_pow]; omega

theorem domainVector_getElem_zero (s : State) : (domainVector s)[0] = BitVec.ofNat 8 (s.keyW.toNat >>> 5) :=
  padRight_getElem 32 _ 0 (by omega)

/-- Settles O29: the twelve bytes of the vector extended with zeros. -/
theorem domainVectorBytes : Obligations.DomainVectorBytes := by
  unfold Obligations.DomainVectorBytes
  refine fun s => ⟨toList_padRight (by simp [algorithmName]), fun h => ?_, fun _ h => ?_⟩
  · rw [domainVector_getElem_zero, h]; rfl
  · rw [domainVector_getElem_zero, keyW_shiftRight_of_lt (by omega)]; rfl

/-- Byte `i` of the leading `n` bytes of an operand extended with zeros. -/
theorem padRight_take_getElem {m : Nat} (n : Nat) (v : Bytes m) (i : Nat) (h : i < 32) :
    (padRight 32 (v.toList.take n))[i] = if i < n then v.toList.getD i 0 else 0 := by
  rw [padRight_getElem _ _ i h, take_getD]

theorem padKey_getElem (s : State) (key : Bytes 32) (i : Nat) (h : i < 32) :
    (padKey s key)[i] = if i < s.keyW.toNat then key[i] else 0 := by
  rw [padKey, padRight_take_getElem _ _ i h, getD_toList key i h]

/-- Settles O30, byte by byte. -/
theorem paddedKeyBytes : Obligations.PaddedKeyBytes := by
  unfold Obligations.PaddedKeyBytes
  refine fun s key => ⟨fun i => padKey_getElem s key i i.isLt, fun hw => ?_⟩
  ext1 i h
  rw [padKey_getElem s key i h, if_pos (hw ▸ h)]

/-- Settles O31: with both widths below 32 the vectors `V` are equal too, so `OPC` is computed from the same values. -/
theorem equalPaddedKeysDeriveEqualOpc : Obligations.EqualPaddedKeysDeriveEqualOpc := by
  unfold Obligations.EqualPaddedKeysDeriveEqualOpc
  intro s s' t t' key key' hl hl' hc hc' hop hw hw' hpad ht ht'
  have hV : domainVector s = domainVector s' := by
    rw [domainVector, domainVector, keyW_shiftRight_of_lt hw, keyW_shiftRight_of_lt hw']
  rw [exec_deriveopc, deriveopcWith_of_cfgOk engineParams key hl hc] at ht
  rw [exec_deriveopc, deriveopcWith_of_cfgOk engineParams key' hl' hc'] at ht'
  obtain rfl := Host.Outcome.next.inj ht
  obtain rfl := Host.Outcome.next.inj ht'
  simp only [afterOk_opc, derivedOpc_eq, hop, hpad, hV]

end Sys2Proof.Machine
end

section
/-! SUPPORT. The suite's packed bytes (43_suite.md R164 to R166), core transform (R160) and MAC skeleton (R180), and the bytes of the
operands that matter (30_encoding.md R72). -/

namespace Sys2Proof.Machine

/-! ## Packed bytes -/

/-- A high field and a low field of `n` bits, laid together, are read back by division. -/
theorem shiftLeft_or_fields {n low : Nat} (high : Nat) (h : low < 2 ^ n) :
    (high <<< n ||| low) / 2 ^ n = high ∧ (high <<< n ||| low) % 2 ^ n = low := by
  rw [← Nat.shiftLeft_add_eq_or_of_lt h, Nat.shiftLeft_eq, Nat.mul_comm]
  exact ⟨by rw [Nat.mul_add_div (Nat.two_pow_pos n), Nat.div_eq_of_lt h, Nat.add_zero],
    by rw [Nat.mul_add_mod, Nat.mod_eq_of_lt h]⟩

/-- `KEY_W >> 5` is the flag of the 32-byte key. -/
theorem keyW_shiftRight {s : State} (h : CfgOk s) : s.keyW.toNat >>> 5 = if s.keyW.toNat = 32 then 1 else 0 := by
  obtain ⟨⟨_, hk⟩, _⟩ := h
  split
  · next hw => rw [hw]; rfl
  · next hw => exact keyW_shiftRight_of_lt (by omega)

/-- The nonce width's and the key width's terms of byte 0 stay below bit 4. -/
theorem byte0_low_lt {s : State} (h : CfgOk s) : (s.nonceW.toNat - 2) ||| (s.keyW.toNat >>> 5) < 2 ^ 4 := by
  have hkey := keyW_shiftRight h
  obtain ⟨_, _, _, _, _, ⟨_, hn⟩, _⟩ := h
  refine Nat.or_lt_two_pow (by omega) ?_
  rw [hkey]
  split <;> decide

/-- Byte 0 as a number: the index, and below it the two width terms. -/
theorem byte0_eq_add {s : State} (h : CfgOk s) (idx : Nat) :
    byte0 s idx = idx * 32 + ((s.nonceW.toNat - 2) ||| (s.keyW.toNat >>> 5)) := by
  rw [byte0, Nat.or_assoc, ← Nat.shiftLeft_add_eq_or_of_lt ((byte0_low_lt h).trans (by decide)), Nat.shiftLeft_eq]

theorem byte0_le {s : State} (h : CfgOk s) (idx : Fin 8) : byte0 s idx.val ≤ 0xEF := by
  have hlow := byte0_low_lt h
  rw [byte0_eq_add h]
  omega

/-- An odd nonce width's term has bit 0 set already. -/
theorem odd_or_eq {n k : Nat} (hn : n % 2 = 1) (hk : k ≤ 1) : n ||| k = n := by
  obtain rfl | rfl : k = 0 ∨ k = 1 := by omega
  · exact Nat.or_zero n
  · have hbit : n = (n / 2) <<< 1 ||| 1 := by
      rw [← Nat.shiftLeft_add_eq_or_of_lt (by decide), Nat.shiftLeft_eq]; omega
    rw [hbit, Nat.or_assoc, Nat.or_self]

/-- Settles O44: byte 0 is the index times 32 plus less than 16, and the key width sets a bit that an odd nonce width sets too. -/
theorem byteZeroFields : Obligations.ByteZeroFields := by
  unfold Obligations.ByteZeroFields
  intro s idx h
  have hlow := byte0_low_lt h
  have hkey := keyW_shiftRight h
  refine ⟨rfl, ?_, ?_, byte0_le h idx, hkey, fun hodd => ?_⟩
  · rw [byte0_eq_add h]; omega
  · rw [byte0_eq_add h]; omega
  · have ⟨_, _, _, _, _, ⟨hn, _⟩, _⟩ := h
    rw [byte0_eq_add h, odd_or_eq (by omega) (by rw [hkey]; split <;> omega)]

/-- The range check of `F1S` and `F1` in terms of the quotient. -/
theorem f1HiOk_iff (adj : Nat) (s : State) : F1HiOk adj s ↔ 5 ≤ s.nonceW.toNat / adj ∧ s.nonceW.toNat / adj ≤ 12 := by
  simp only [F1HiOk, f1Hi]
  omega

/-- The fields of the metadata byte of f5ss. -/
theorem metaF5ss_fields {s : State} (h : CfgOk s) :
    metaF5ss s ≤ 255 ∧ metaF5ss s / 8 + 1 = s.macW.toNat ∧ metaF5ss s % 8 + 5 = s.akW.toNat := by
  obtain ⟨_, _, _, _, hmac, _, _, hak⟩ := h
  obtain ⟨hhigh, hlow⟩ := shiftLeft_or_fields (n := 3) (s.macW.toNat - 1) (low := s.akW.toNat - 5) (by omega)
  rw [← metaF5ss] at hhigh hlow
  omega

/-- The fields of the metadata byte of f1s and f1. -/
theorem metaMac_fields {s : State} {adj : Nat} (h : CfgOk s) (hf : F1HiOk adj s) :
    metaMac adj s ≤ 255 ∧ ((metaMac adj s / 32 : Nat) : Int) = f1Hi adj s ∧ metaMac adj s % 32 + 1 = s.macW.toNat := by
  obtain ⟨_, _, _, _, hmac, _⟩ := h
  obtain ⟨hhigh, hlow⟩ := shiftLeft_or_fields (n := 5) (f1Hi adj s).toNat (low := s.macW.toNat - 1) (by omega)
  rw [← metaMac] at hhigh hlow
  obtain ⟨hf0, hf7⟩ := hf
  omega

/-- Settles O45: the fields are in range because the widths are, and the two packed bytes are read back by division. -/
theorem packingNeverOverflows : Obligations.PackingNeverOverflows := by
  unfold Obligations.PackingNeverOverflows
  intro s adj h
  refine ⟨byte0_le h, ?_, ?_, ?_, ?_, ?_, metaF5ss_fields h, metaMac_fields h, ?_⟩ <;>
    obtain ⟨_, hres, hck, hik, hmac, hnonce, hsqn, hak⟩ := h
  · rw [metaF2]; omega
  · rw [metaF3]; omega
  · rw [metaF4]; omega
  · rw [metaF5]; omega
  · rw [metaF5s]; omega
  · omega

/-! ## The core transform -/

/-- Settles O42: the model XORs `OPC` in from the other side, and the nonce's bytes beyond `NONCE_W` are cut off. -/
theorem coreTransform_formula : Obligations.CoreTransform := by
  unfold Obligations.CoreTransform
  refine fun s idx metadata o => ⟨?_, fun _ i => padRight_take_getElem _ o.rand i i.isLt⟩
  rw [coreTransform, xorBytes_comm _ s.opc]
  rfl

/-! ## `F1S` and `F1` at every `WIDTH_ADJ` -/

/-- Settles O48: the range check of the skeleton, at any parameters. -/
theorem macCommandsOverEveryWidthAdj : Obligations.MacCommandsOverEveryWidthAdj := by
  unfold Obligations.MacCommandsOverEveryWidthAdj
  refine ⟨fun s P idx o hl hc _ hlow hhigh => ?_, fun s P idx o hl _ hout => ?_,
    fun s key rand amf sqn => ⟨rfl, rfl⟩⟩
  · rw [macCommand_of_ready P idx o hl hc, if_pos ((f1HiOk_iff _ s).2 ⟨hlow, hhigh⟩)]
  · have hf : ¬ F1HiOk P.widthAdj s := by rw [f1HiOk_iff]; omega
    rw [macCommand, if_pos hl, if_neg hf, raise_eq_afterFault]

/-! ## Operand bytes beyond the configured widths -/

/-- The leading `n` bytes decide an operand cut to `n` bytes. -/
theorem take_toList_congr {m n : Nat} {a b : Bytes m} (h : AgreeLeading n a b) : a.toList.take n = b.toList.take n := by
  refine List.ext_getElem (by simp) fun i h1 h2 => ?_
  have hi : i < n ∧ i < m := by simpa using h1
  have hbyte := h i hi.1
  rw [getD_toList a i hi.2, getD_toList b i hi.2] at hbyte
  simpa using hbyte

theorem padKey_congr {s : State} {key key' : Bytes 32} (h : AgreeLeading s.keyW.toNat key key') :
    padKey s key = padKey s key' := by
  rw [padKey, padKey, take_toList_congr h]

theorem nonceBlock_congr {s : State} {rand rand' : Bytes 16} (h : AgreeLeading s.nonceW.toNat rand rand') :
    nonceBlock s rand = nonceBlock s rand' := by
  rw [nonceBlock, nonceBlock, take_toList_congr h]

theorem inBlock_congr_sqn {s : State} {sqn sqn' : Bytes 12} (h : AgreeLeading s.sqnW.toNat sqn sqn') (idx : Fin 8)
    (metadata : Nat) (key : Bytes 32) (rand : Bytes 16) (amf : Option (Bytes 2)) (macs : Option (Bytes 32)) :
    inBlock s idx metadata ⟨key, rand, amf, some sqn, macs⟩ = inBlock s idx metadata ⟨key, rand, amf, some sqn', macs⟩ := by
  simp only [inBlock, optBytes, take_toList_congr h]

theorem inBlock_congr_macs {s : State} {macs macs' : Bytes 32} (h : AgreeLeading (min s.macW.toNat 30) macs macs')
    (idx : Fin 8) (metadata : Nat) (key : Bytes 32) (rand : Bytes 16) (amf : Option (Bytes 2)) (sqn : Option (Bytes 12)) :
    inBlock s idx metadata ⟨key, rand, amf, sqn, some macs⟩ = inBlock s idx metadata ⟨key, rand, amf, sqn, some macs'⟩ := by
  simp only [inBlock, optBytes, take_toList_congr h]

/-- Two lists of operands with the same padded key, nonce block and input-mixing blocks: the core transform reads nothing else of
them. -/
structure SameUsedOperands (s : State) (o o' : SuiteOperands) : Prop where
  key : padKey s o.key = padKey s o'.key
  rand : nonceBlock s o.rand = nonceBlock s o'.rand
  block : ∀ idx metadata, inBlock s idx metadata o = inBlock s idx metadata o'

theorem coreTransform_congr {s : State} {o o' : SuiteOperands} (h : SameUsedOperands s o o') (A : Aes) (idx : Fin 8)
    (metadata : Nat) : coreTransform A s idx metadata o = coreTransform A s idx metadata o' := by
  simp only [coreTransform, tempBlock, h.key, h.rand, h.block]

theorem suiteCommand_congr {s : State} {o o' : SuiteOperands} (hc : CfgOk s) (h : SameUsedOperands s o o') (P : Params)
    (idx : Fin 8) (metadata n : Nat) : suiteCommand P idx metadata n o s = suiteCommand P idx metadata n o' s := by
  simp only [suiteCommand, suiteOutput_of_cfgOk hc, coreTransform_congr h]

theorem macCommand_congr {s : State} {o o' : SuiteOperands} (hc : CfgOk s) (h : SameUsedOperands s o o') (P : Params)
    (idx : Fin 8) : macCommand P idx o s = macCommand P idx o' s := by
  simp only [macCommand, suiteOutput_of_cfgOk hc, coreTransform_congr h]

/-- `DERIVEOPC` uses the padded key only. -/
theorem deriveopcWith_congr {s : State} {key key' : Bytes 32} (h : padKey s key = padKey s key') (P : Params) :
    deriveopcWith P key s = deriveopcWith P key' s := by
  simp only [deriveopcWith, derivedOpc, h]

/-- A host write of a register other than `OP` uses the first byte only. -/
theorem hostWrite_congr {data data' : Bytes 32} (h : AgreeLeading 1 data data') (s : State) {r : Reg} (hr : r ≠ .op) :
    hostWrite s data r = hostWrite s data' r := by
  have hbyte := h 0 (by decide)
  rw [getD_toList data 0 (by decide), getD_toList data' 0 (by decide)] at hbyte
  cases r with
  | op => exact absurd rfl hr
  | width w => simp only [hostWrite, hbyte]
  | opc | constant | lifecycle | fault => rfl

theorem execWrctx_congr {data data' : Bytes 32} (h : AgreeLeading 1 data data') (s : State) {reg : Byte} (hreg : reg ≠ 0x00) :
    execWrctx reg data s = execWrctx reg data' s := by
  have hwrite : (regOf reg).bind (hostWrite s data) = (regOf reg).bind (hostWrite s data') := by
    cases hr : regOf reg with
    | none => rfl
    | some r => exact hostWrite_congr h s fun hop => hreg (eq_zero_of_regOf_op reg (hop ▸ hr))
  rw [execWrctx, execWrctx, hwrite]

/-- Settles O55: each command uses its operands through values that the leading bytes decide. -/
theorem ignoredOperandBytesNeverMatter : Obligations.IgnoredOperandBytesNeverMatter := by
  unfold Obligations.IgnoredOperandBytesNeverMatter
  intro s key key' rand rand' hc hkey hrand
  have hpad := padKey_congr hkey
  have hnonce := nonceBlock_congr hrand
  have hsame : SameUsedOperands s ⟨key, rand, none, none, none⟩ ⟨key', rand', none, none, none⟩ :=
    ⟨hpad, hnonce, fun _ _ => rfl⟩
  have hplain := suiteCommand_congr hc hsame engineParams
  refine ⟨fun amf sqn sqn' hsqn => ?_, congrArg Host.Outcome.next (hplain 2 _ _), congrArg Host.Outcome.next (hplain 3 _ _),
    congrArg Host.Outcome.next (hplain 4 _ _), congrArg Host.Outcome.next (hplain 5 _ _),
    congrArg Host.Outcome.next (hplain 6 _ _), fun macs macs' hmacs => ?_,
    congrArg Host.Outcome.next (deriveopcWith_congr hpad _), fun reg data data' hreg hdata => ?_⟩
  · have hsame : SameUsedOperands s ⟨key, rand, some amf, some sqn, none⟩ ⟨key', rand', some amf, some sqn', none⟩ :=
      ⟨hpad, hnonce, fun idx metadata => inBlock_congr_sqn hsqn idx metadata key rand (some amf) none⟩
    have hmac := macCommand_congr hc hsame engineParams
    exact ⟨congrArg Host.Outcome.next (hmac 0), congrArg Host.Outcome.next (hmac 1)⟩
  · have hsame : SameUsedOperands s ⟨key, rand, none, none, some macs⟩ ⟨key', rand', none, none, some macs'⟩ :=
      ⟨hpad, hnonce, fun idx metadata => inBlock_congr_macs hmacs idx metadata key rand none none⟩
    exact congrArg Host.Outcome.next (suiteCommand_congr hc hsame _ _ _ _)
  · exact execWrctx_congr hdata s hreg

/-! ## The f5ss overlay (R177) -/

/-- Byte `i` of the constant `C[7]` laid on bytes 16..31 of a block (42_context.md R140): only the last byte is not zero. -/
theorem personalization_seven_overlay (i : Nat) (h : i < 32) :
    (if 16 ≤ i then (personalization[(7 : Fin 8)]).toList.getD (i - 16) 0 else 0) = if i = 31 then (0x40 : Byte) else 0 := by
  revert i
  decide

/-- Byte `i` of the f5ss block behind the packed bytes. -/
theorem inBlock_f5ss_getElem {s : State} (hc : s.c = personalization) (metadata : Nat) (key : Bytes 32) (rand : Bytes 16)
    (macs : Bytes 32) (i : Fin 32) (hi : 2 ≤ i.val) :
    (inBlock s 7 metadata ⟨key, rand, none, none, some macs⟩)[i]
      = (if i.val < 2 + min s.macW.toNat 30 then macs.toList.getD (i.val - 2) 0 else 0)
        ^^^ (if i.val = 31 then 0x40 else 0) := by
  rw [inputMixingBlockBytes s 7 metadata ⟨key, rand, none, none, some macs⟩ i, hc, personalization_seven_overlay i i.isLt,
    if_neg (by omega), if_neg (by omega)]
  simp [optBytes, hi]

/-- Settles O57: behind byte 1 the block is the overlay XORed with the last byte of the constant. -/
theorem overlayMeetsTheConstant : Obligations.OverlayMeetsTheConstant := by
  unfold Obligations.OverlayMeetsTheConstant
  intro s key rand macs metadata hinv hl block
  obtain ⟨_, _, hready⟩ := hinv
  obtain ⟨hc, _⟩ := hready hl
  have hbyte : ∀ i : Fin 32, 2 ≤ i.val → block[i] = _ := inBlock_f5ss_getElem hc metadata key rand macs
  refine ⟨fun i h16 h30 hin => ?_, fun i h16 h30 hout => ?_, fun hmac => ?_, fun hmac => ?_⟩
  · rw [hbyte i (by omega), if_pos hin, if_neg (by omega)]; simp
  · rw [hbyte i (by omega), if_neg (by omega), if_neg (by omega)]; simp
  · refine (hbyte 31 (by decide)).trans ?_
    rw [if_pos (by rw [min_eq_right hmac]; decide), if_pos (show (31 : Fin 32).val = 31 from rfl)]
    exact congrArg (· ^^^ _) (getD_toList macs 29 (by decide) 0)
  · refine (hbyte 31 (by decide)).trans ?_
    rw [if_neg (by rw [min_eq_left hmac.le]; change ¬ 31 < _; omega), if_pos (show (31 : Fin 32).val = 31 from rfl)]
    rfl

end Sys2Proof.Machine
end

section
/-! SUPPORT. The machine with its parameters as arguments (00_scope.md R9, R10, 93_implementation_defined.md U15). -/

namespace Sys2Proof.Machine

/-- Settles O59: the laws that say so of every command and of the step, at the engine's parameters. -/
theorem engineIsTheMachineAtItsDefaultParameters : Obligations.EngineIsTheMachineAtItsDefaultParameters :=
  ⟨fun i s => congrFun (congrFun exec_eq_execWith i) s, congrFun step_eq_stepWith⟩

/-- Settles O60: the skeletons, `DERIVEOPC`, the decoded command of a step and the invariant, each at any parameters. -/
theorem machineAtAnyParameters : Obligations.MachineAtAnyParameters := by
  unfold Obligations.MachineAtAnyParameters
  refine fun P => ⟨fun s key rand hl hc => ?suite, fun s key hl hc => ?deriveopc,
    fun s key block => congrArg Host.Outcome.next (respond_eq_afterOk s _), fun s reg data => ⟨rfl, rfl, rfl⟩,
    fun s d rest i => stepWith_of_decode P, fun s t => stepWith_keeps_inv P⟩
  case suite =>
    have hsuite : ∀ idx metadata n o, suiteCommand P idx metadata n o s = _ := fun idx metadata n o =>
      suiteCommand_of_ready P idx metadata n o hl hc
    refine ⟨congrArg Host.Outcome.next (hsuite 2 _ _ _), congrArg Host.Outcome.next (hsuite 3 _ _ _),
      congrArg Host.Outcome.next (hsuite 4 _ _ _), congrArg Host.Outcome.next (hsuite 5 _ _ _),
      congrArg Host.Outcome.next (hsuite 6 _ _ _), fun macs => congrArg Host.Outcome.next (hsuite 7 _ _ _),
      fun hf amf sqn => ?_⟩
    have hmac : ∀ idx o, macCommand P idx o s = _ := fun idx o =>
      (macCommand_of_ready P idx o hl hc).trans (if_pos hf)
    exact ⟨congrArg Host.Outcome.next (hmac 0 _), congrArg Host.Outcome.next (hmac 1 _)⟩
  case deriveopc =>
    rw [← derivedOpc_eq]
    exact congrArg Host.Outcome.next (deriveopcWith_of_cfgOk P key hl hc)

end Sys2Proof.Machine
end

section
/-! SUPPORT. The key schedule (40_aes_primitive.md R109, 41_cipher.md R121, R122) word by word and byte by byte. -/

namespace Sys2Proof

/-- Byte `i` of a field, read with a default. -/
theorem field_getD {n start i : Nat} (d : List Byte) (h : i < n) :
    (field n start d).toList.getD i 0 = d.getD (start + i) 0 := by
  rw [getD_toList _ i h, field_getElem _ _ _ i h]

end Sys2Proof

namespace Sys2Proof.Machine

/-! ## The recurrence -/

theorem keyWord_getElem_of_lt (key : Bytes 32) {i : Nat} (hi : i < 8) (k : Nat) (hk : k < 4) :
    (keyWord key i)[k] = key.toList.getD (4 * i + k) 0 := by
  simp only [keyWord, if_pos hi, keyAsWord, field_getElem _ _ _ k hk]

/-- The list of the schedule's words holds them from the last one down to `W[0]`. -/
theorem schedule_getD (key : Bytes 32) (n j : Nat) (hj : j ≤ n + 7) :
    (schedule key n).getD j (zeros 4) = keyWord key (n + 7 - j) := by
  induction n generalizing j with
  | zero =>
    rw [keyWord, if_pos (by omega), schedule, List.getD_eq_getElem _ _ (by simp; omega)]
    simp
  | succ n ih =>
    cases j with
    | zero => rw [keyWord, if_neg (by omega)]; congr 1
    | succ j =>
      rw [schedule, List.getD_cons_succ, ih j (by omega)]
      congr 1
      omega

/-- Every word from `W[8]` on is the next word of the one 8 back and the one 1 back. -/
theorem keyWord_eq_nextWord (key : Bytes 32) {i : Nat} (hi : 8 ≤ i) :
    keyWord key i = nextWord i (keyWord key (i - 8)) (keyWord key (i - 1)) := by
  obtain ⟨n, rfl⟩ := Nat.exists_eq_add_of_le' hi
  rw [keyWord, if_neg (by omega), show n + 8 - 7 = n + 1 by omega, schedule, List.getD_cons_zero,
    schedule_getD key n 7 (by omega), schedule_getD key n 0 (by omega)]
  rfl

/-- Settles O37: the three cases of `nextWord`. -/
theorem keyScheduleRecurrence : Obligations.KeyScheduleRecurrence := by
  unfold Obligations.KeyScheduleRecurrence
  refine fun key => ⟨fun i k => keyWord_getElem_of_lt key i.isLt k k.isLt, fun i hi h0 => ?_, fun i hi h4 => ?_,
    fun i hi h0 h4 => ?_⟩ <;> rw [keyWord_eq_nextWord key hi, nextWord]
  · rw [if_pos h0]
  · rw [if_neg (by omega), if_pos h4]
  · rw [if_neg h0, if_neg h4]

/-! ## The round keys -/

/-- Byte `j` of four words laid end to end is byte `j mod 4` of word `j div 4`. -/
theorem four_words_getElem (w : Nat → Word) (j : Nat) (hj : j < 16) :
    (padRight 16 ((w 0).toList ++ (w 1).toList ++ (w 2).toList ++ (w 3).toList))[j] = (w (j / 4)).toList.getD (j % 4) 0 := by
  rw [padRight_getElem _ _ j hj]
  have hword : j / 4 = 0 ∨ j / 4 = 1 ∨ j / 4 = 2 ∨ j / 4 = 3 := by omega
  rcases hword with h | h | h | h <;> rw [h]
  · rw [List.getD_append _ _ _ _ (by simp; omega), List.getD_append _ _ _ _ (by simp; omega),
      List.getD_append _ _ _ _ (by simp; omega)]
    congr 1; omega
  · rw [List.getD_append _ _ _ _ (by simp; omega), List.getD_append _ _ _ _ (by simp; omega),
      List.getD_append_right _ _ _ _ (by simp; omega), Vector.length_toList]
    congr 1; omega
  · rw [List.getD_append _ _ _ _ (by simp; omega), List.getD_append_right _ _ _ _ (by simp; omega), List.length_append,
      Vector.length_toList, Vector.length_toList]
    congr 1; omega
  · rw [List.getD_append_right _ _ _ _ (by simp; omega), List.length_append, List.length_append, Vector.length_toList,
      Vector.length_toList, Vector.length_toList]
    congr 1; omega

theorem roundKeyA_getElem (key : Bytes 32) (r j : Nat) (hj : j < 16) :
    (roundKeyA fips197 key r)[j] = (keyWord key (8 * r + j / 4)).toList.getD (j % 4) 0 :=
  four_words_getElem (fun k => keyWord key (8 * r + k)) j hj

theorem roundKeyB_getElem (key : Bytes 32) (r j : Nat) (hj : j < 16) :
    (roundKeyB fips197 key r)[j] = (keyWord key (8 * r + 4 + j / 4)).toList.getD (j % 4) 0 :=
  four_words_getElem (fun k => keyWord key (8 * r + 4 + k)) j hj

/-- Byte `j` of the word that `j` falls in is byte `j` of the key. -/
theorem keyWord_getD_of_lt (key : Bytes 32) {q r : Nat} (hq : q < 8) (hr : r < 4) :
    (keyWord key q).toList.getD r 0 = key.toList.getD (4 * q + r) 0 := by
  rw [getD_toList _ r hr, keyWord_getElem_of_lt key hq r hr]

/-- Settles O38: each half is four words end to end, and the first eight words are the key. -/
theorem roundKeyPairs : Obligations.RoundKeyPairs := by
  unfold Obligations.RoundKeyPairs
  refine fun key => ⟨fun r j => ⟨roundKeyA_getElem key r j j.isLt, roundKeyB_getElem key r j j.isLt⟩, ?_, ?_⟩ <;>
    ext1 j hj
  · rw [roundKeyA_getElem key 0 j hj, keyWord_getD_of_lt key (by omega) (by omega), laneA, field_getElem _ _ _ j hj]
    congr 1; omega
  · rw [roundKeyB_getElem key 0 j hj, keyWord_getD_of_lt key (by omega) (by omega), laneB, field_getElem _ _ _ j hj]
    congr 1; omega

end Sys2Proof.Machine
end

section
/-! SUPPORT. The round operations of AES (40_aes_primitive.md R102 to R105, R111) on the columns of a lane, and that each can be
undone. -/

namespace Sys2Proof.Machine

/-! ## Multiplication (R111) -/

theorem xor_left_comm (a b c : Byte) : a ^^^ (b ^^^ c) = b ^^^ (a ^^^ c) := by
  rw [← BitVec.xor_assoc, BitVec.xor_comm a b, BitVec.xor_assoc]

theorem gfMul_two (a : Byte) : gfMul a 0x02 = xtime a := by
  simp [gfMul, List.range, List.range.loop, xtimes]

theorem gfMul_three (a : Byte) : gfMul a 0x03 = mul03 a := by
  simp [gfMul, List.range, List.range.loop, xtimes, mul03, BitVec.xor_comm]

/-- Multiplication by 02 is linear: so are the shift and the choice of the reduction. -/
theorem xtime_xor (a b : Byte) : xtime (a ^^^ b) = xtime a ^^^ xtime b := by
  have hreduce : ∀ p q : Bool, (if (p ^^ q) = true then 0x1B else 0x00 : Byte)
      = (if p = true then 0x1B else 0x00) ^^^ (if q = true then 0x1B else 0x00) := by decide
  simp only [xtime, BitVec.shiftLeft_xor_distrib, BitVec.getLsbD_xor, hreduce]
  ac_rfl

/-- The products of `a` with the bits of `b` that `l` lists, XORed to `acc`: the fold of R111's `mul`. -/
def gfMulOver (l : List Nat) (a b acc : Byte) : Byte :=
  l.foldl (fun acc i => if b.getLsbD i then acc ^^^ xtimes i a else acc) acc

theorem gfMul_eq_gfMulOver (a b : Byte) : gfMul a b = gfMulOver (List.range 8) a b 0 := rfl

theorem gfMulOver_xor (l : List Nat) (a b c acc acc' : Byte) :
    gfMulOver l a (b ^^^ c) (acc ^^^ acc') = gfMulOver l a b acc ^^^ gfMulOver l a c acc' := by
  induction l generalizing acc acc' with
  | nil => rfl
  | cons i l ih =>
    simp only [gfMulOver, List.foldl_cons] at ih ⊢
    rw [← ih, BitVec.getLsbD_xor]
    congr 1
    cases b.getLsbD i <;> cases c.getLsbD i <;> simp [BitVec.xor_assoc, BitVec.xor_comm, xor_left_comm]

/-- A product is linear in its second factor. -/
theorem gfMul_xor (a b c : Byte) : gfMul a (b ^^^ c) = gfMul a b ^^^ gfMul a c := by
  simp only [gfMul_eq_gfMulOver]
  exact gfMulOver_xor (List.range 8) a b c 0 0

/-- A byte is the XOR of its bits. -/
theorem eq_foldl_bits : ∀ d : Byte,
    d = ((List.finRange 8).filter fun i => d.getLsbD i.val).foldl (fun acc i => acc ^^^ BitVec.twoPow 8 i.val) 0 := by
  decide +kernel

/-- A linear function that keeps every single bit keeps every byte. -/
theorem linear_eq_self {f : Byte → Byte} (hadd : ∀ x y, f (x ^^^ y) = f x ^^^ f y)
    (hbit : ∀ i : Fin 8, f (BitVec.twoPow 8 i.val) = BitVec.twoPow 8 i.val) (d : Byte) : f d = d := by
  have hspan : ∀ (l : List (Fin 8)) (x : Byte), f x = x →
      f (l.foldl (fun acc i => acc ^^^ BitVec.twoPow 8 i.val) x) = l.foldl (fun acc i => acc ^^^ BitVec.twoPow 8 i.val) x := by
    intro l
    induction l with
    | nil => exact fun x hx => hx
    | cons i l ih => exact fun x hx => ih _ (by rw [hadd, hx, hbit])
  rw [eq_foldl_bits d]
  exact hspan _ 0 (by simpa using hadd 0 0)

/-! ## The S-box (R102) -/

/-- The byte whose affine image (R102) the table gives at `a`. -/
def sboxInverseByte (a : Byte) : Byte :=
  (sbox a).rotateLeft 1 ^^^ (sbox a).rotateLeft 3 ^^^ (sbox a).rotateLeft 6 ^^^ 0x05

theorem gfMul_sboxInverseByte : ∀ a : Byte, a ≠ 0 → gfMul a (sboxInverseByte a) = 1 := by decide +kernel

theorem gfMul_sboxInverseByte_bit : ∀ a : Byte, a ≠ 0 → ∀ i : Fin 8,
    gfMul (sboxInverseByte a) (gfMul a (BitVec.twoPow 8 i.val)) = BitVec.twoPow 8 i.val := by decide +kernel

/-- Multiplying by the table's byte undoes multiplying by `a`, so no other byte is an inverse of `a`. -/
theorem eq_sboxInverseByte {a b : Byte} (ha : a ≠ 0) (h : gfMul a b = 1) : b = sboxInverseByte a := by
  have hundo : ∀ d, gfMul (sboxInverseByte a) (gfMul a d) = d :=
    linear_eq_self (fun x y => by rw [gfMul_xor, gfMul_xor]) (gfMul_sboxInverseByte_bit a ha)
  calc b = gfMul (sboxInverseByte a) (gfMul a b) := (hundo b).symm
    _ = gfMul (sboxInverseByte a) (gfMul a (sboxInverseByte a)) := by rw [h, gfMul_sboxInverseByte a ha]
    _ = sboxInverseByte a := hundo _

theorem mem_allBytes (b : Byte) : b ∈ (List.range 256).map (BitVec.ofNat 8) :=
  List.mem_map.2 ⟨b.toNat, List.mem_range.2 b.isLt, by simp⟩

/-- The search of R111 for an inverse finds the table's byte. -/
theorem gfInv_eq_sboxInverseByte (a : Byte) : gfInv a = sboxInverseByte a := by
  by_cases ha : a = 0
  · subst ha
    decide +kernel
  · have hmul : (gfMul a (sboxInverseByte a) == 1) = true := beq_iff_eq.2 (gfMul_sboxInverseByte a ha)
    obtain ⟨b, hb⟩ := Option.isSome_iff_exists.1 ((List.find?_isSome (p := fun b => gfMul a b == 1)).2
      ⟨sboxInverseByte a, mem_allBytes _, hmul⟩)
    rw [gfInv, hb]
    have hpred := List.find?_some hb
    exact eq_sboxInverseByte ha (beq_iff_eq.1 hpred)

/-- The affine map of R102 at the table's byte. -/
theorem sbox_eq_affine : ∀ a : Byte, sbox a = sboxInverseByte a ^^^ (sboxInverseByte a).rotateLeft 1
    ^^^ (sboxInverseByte a).rotateLeft 2 ^^^ (sboxInverseByte a).rotateLeft 3 ^^^ (sboxInverseByte a).rotateLeft 4
    ^^^ 0x63 := by decide +kernel

theorem sbox_eq_sboxAlgebraic (a : Byte) : sbox a = sboxAlgebraic a := by
  rw [sboxAlgebraic, gfInv_eq_sboxInverseByte]
  exact sbox_eq_affine a

/-- The inverse of the inverse is the byte itself. -/
theorem sboxInverseByte_involutive : ∀ a : Byte, sboxInverseByte (sboxInverseByte a) = a := by decide +kernel

theorem sbox_bijective : Function.Bijective sbox := by
  refine Finite.injective_iff_bijective.1 fun a b h => ?_
  have hinv : sboxInverseByte a = sboxInverseByte b := by rw [sboxInverseByte, sboxInverseByte, h]
  rw [← sboxInverseByte_involutive a, hinv, sboxInverseByte_involutive b]

theorem sbox_ne_self : ∀ a : Byte, sbox a ≠ a := by decide +kernel

/-- Settles O39: the search for the inverse finds the byte the table stands for, whose affine image is the entry. -/
theorem sboxTableIsTheAlgebraicSbox : Obligations.SboxTableIsTheAlgebraicSbox :=
  ⟨sbox_eq_sboxAlgebraic, sbox_bijective, sbox_ne_self⟩

/-! ## Columns (R110) -/

/-- The byte of row `r` and column `c` of a lane. -/
def laneByte (s : Lane) (c r : Nat) : Byte := s.toList.getD (4 * c + r) 0

theorem getElem_eq_laneByte (s : Lane) (i : Nat) (h : i < 16) : s[i] = laneByte s (i / 4) (i % 4) := by
  rw [laneByte, Nat.div_add_mod, getD_toList s i h]

/-- A lane is its columns. -/
theorem lane_ext {s t : Lane} (h : ∀ c < 4, ∀ r < 4, laneByte s c r = laneByte t c r) : s = t := by
  ext1 i hi
  rw [getElem_eq_laneByte s i hi, getElem_eq_laneByte t i hi]
  exact h _ (by omega) _ (by omega)

theorem laneByte_eq_getElem (s : Lane) {c r : Nat} (hc : c < 4) (hr : r < 4) :
    laneByte s c r = s[4 * c + r]'(by omega) :=
  getD_toList s (4 * c + r) (by omega) 0

theorem shiftRows_getElem (s : Lane) (i : Nat) (h : i < 16) :
    (shiftRows s)[i] = s.toList.getD (i % 4 + 4 * ((i / 4 + i % 4) % 4)) 0 := by
  rw [shiftRows, Vector.getElem_ofFn]

theorem shiftRows_laneByte (s : Lane) {c r : Nat} (hc : c < 4) (hr : r < 4) :
    laneByte (shiftRows s) c r = laneByte s ((c + r) % 4) r := by
  rw [laneByte_eq_getElem _ hc hr, shiftRows_getElem]
  simp only [laneByte, show (4 * c + r) % 4 = r by omega, show (4 * c + r) / 4 = c by omega, Nat.add_comm r]

theorem mixColumns_getElem (s : Lane) (i : Nat) (h : i < 16) :
    (mixColumns s)[i] = mixByte (i % 4) (s.toList.getD (4 * (i / 4)) 0) (s.toList.getD (4 * (i / 4) + 1) 0)
      (s.toList.getD (4 * (i / 4) + 2) 0) (s.toList.getD (4 * (i / 4) + 3) 0) := by
  rw [mixColumns, Vector.getElem_ofFn]

theorem mixColumns_laneByte (s : Lane) {c r : Nat} (hc : c < 4) (hr : r < 4) :
    laneByte (mixColumns s) c r = mixByte r (laneByte s c 0) (laneByte s c 1) (laneByte s c 2) (laneByte s c 3) := by
  rw [laneByte_eq_getElem _ hc hr, mixColumns_getElem]
  simp only [laneByte, show (4 * c + r) % 4 = r by omega, show (4 * c + r) / 4 = c by omega, Nat.add_zero]

/-- Settles O41: `ShiftRows` by columns, `AddRoundKey` by bytes. -/
theorem shiftRowsAndAddRoundKey : Obligations.ShiftRowsAndAddRoundKey := by
  unfold Obligations.ShiftRowsAndAddRoundKey
  refine ⟨fun s r c => ?_, fun s k i => xorBytes_getElem s k i i.isLt, fun s k => xorBytes_cancel s k⟩
  simpa only [laneByte, Nat.add_comm] using shiftRows_laneByte s c.isLt r.isLt

/-- Settles O40: each row of a mixed column, with 02 and 03 as multipliers. -/
theorem mixColumnsColumns : Obligations.MixColumnsColumns := by
  unfold Obligations.MixColumnsColumns
  intro s c a b
  have hrow : ∀ r < 4, b r = mixByte r (a 0) (a 1) (a 2) (a 3) := fun r hr => mixColumns_laneByte s c.isLt hr
  simp only [gfMul_two, gfMul_three]
  exact ⟨hrow 0 (by decide), hrow 1 (by decide), hrow 2 (by decide), hrow 3 (by decide)⟩

/-! ## Every round operation can be undone -/

theorem subBytes_injective : Function.Injective subBytes := by
  intro s t h
  ext1 i hi
  apply sbox_bijective.injective
  rw [← subBytes_getElem s i hi, ← subBytes_getElem t i hi, h]

theorem shiftRows_injective : Function.Injective shiftRows := by
  intro s t h
  refine lane_ext fun c hc r hr => ?_
  have hbyte := congrArg (laneByte · ((c + 4 - r) % 4) r) h
  simpa only [shiftRows_laneByte _ (Nat.mod_lt _ (by decide) : (c + 4 - r) % 4 < 4) hr,
    show ((c + 4 - r) % 4 + r) % 4 = c by omega] using hbyte

/-- Row `r` of a column mixed twice: the matrix of R104 squared. -/
def mixTwiceByte (r : Nat) (a0 a1 a2 a3 : Byte) : Byte :=
  match r with
  | 0 => xtime (xtime (a0 ^^^ a2)) ^^^ a0
  | 1 => xtime (xtime (a1 ^^^ a3)) ^^^ a1
  | 2 => xtime (xtime (a0 ^^^ a2)) ^^^ a2
  | _ => xtime (xtime (a1 ^^^ a3)) ^^^ a3

theorem mixByte_mixByte {r : Nat} (hr : r < 4) (a0 a1 a2 a3 : Byte) :
    mixByte r (mixByte 0 a0 a1 a2 a3) (mixByte 1 a0 a1 a2 a3) (mixByte 2 a0 a1 a2 a3) (mixByte 3 a0 a1 a2 a3)
      = mixTwiceByte r a0 a1 a2 a3 := by
  interval_cases r <;>
    simp [mixByte, mixTwiceByte, mul03, xtime_xor, BitVec.xor_assoc, BitVec.xor_comm, xor_left_comm]

theorem mixTwiceByte_mixTwiceByte (a0 a1 a2 a3 : Byte) (r : Nat) (hr : r < 4) :
    mixTwiceByte r (mixTwiceByte 0 a0 a1 a2 a3) (mixTwiceByte 1 a0 a1 a2 a3) (mixTwiceByte 2 a0 a1 a2 a3)
      (mixTwiceByte 3 a0 a1 a2 a3) = [a0, a1, a2, a3].getD r 0 := by
  interval_cases r <;> simp [mixTwiceByte, xtime_xor, BitVec.xor_assoc, BitVec.xor_comm]

theorem mixColumns_twice_laneByte (s : Lane) {c r : Nat} (hc : c < 4) (hr : r < 4) :
    laneByte (mixColumns (mixColumns s)) c r
      = mixTwiceByte r (laneByte s c 0) (laneByte s c 1) (laneByte s c 2) (laneByte s c 3) := by
  rw [mixColumns_laneByte _ hc hr, mixColumns_laneByte s hc (r := 0) (by decide), mixColumns_laneByte s hc (r := 1) (by decide),
    mixColumns_laneByte s hc (r := 2) (by decide), mixColumns_laneByte s hc (r := 3) (by decide), mixByte_mixByte hr]

/-- The matrix of R104 has order four, so mixing three times more undoes the mixing. -/
theorem mixColumns_four_times (s : Lane) : mixColumns (mixColumns (mixColumns (mixColumns s))) = s := by
  refine lane_ext fun c hc r hr => ?_
  rw [mixColumns_twice_laneByte _ hc hr, mixColumns_twice_laneByte s hc (r := 0) (by decide),
    mixColumns_twice_laneByte s hc (r := 1) (by decide), mixColumns_twice_laneByte s hc (r := 2) (by decide),
    mixColumns_twice_laneByte s hc (r := 3) (by decide), mixTwiceByte_mixTwiceByte _ _ _ _ r hr]
  interval_cases r <;> rfl

theorem mixColumns_injective : Function.Injective mixColumns :=
  Function.LeftInverse.injective (g := fun s => mixColumns (mixColumns (mixColumns s))) mixColumns_four_times

/-- XOR with a fixed byte string. -/
theorem xorBytes_injective {n : Nat} (k : Bytes n) : Function.Injective fun s => xorBytes s k :=
  Function.LeftInverse.injective (g := fun s => xorBytes s k) fun s => xorBytes_cancel s k

end Sys2Proof.Machine
end

section
/-! SUPPORT. The inter-lane permutation (41_cipher.md R124, R125) and the cipher (R126): each of its rounds can be undone, and each is a
round of Rijndael with eight columns (R128). -/

namespace Sys2Proof.Machine

/-! ## The permutation -/

/-- The table `INV` of R125. -/
def scatterTable : List Nat :=
  [0, 17, 30, 31, 4, 5, 18, 19, 8, 9, 22, 23, 12, 13, 10, 27, 16, 1, 14, 15, 20, 21, 2, 3, 24, 25, 6, 7, 28, 29, 26, 11]

theorem permTable_bijective : Function.Bijective fun i : Fin 32 => permTable[i] := by decide +kernel

/-- Byte `i` of the permuted state, read with a default. -/
theorem permute_getD (s : Block) {i : Nat} (h : i < 32) :
    (permute s).toList.getD i 0 = s.toList.getD (permTable.toList.getD i 0).val 0 := by
  have hperm : permTable.toList.getD i 0 = permTable[i] := by simp [h]
  rw [getD_toList _ i h, permute_getElem s i h, hperm, getD_toList s _ (permTable[i]).isLt]

/-- `PERM` takes the place `INV` gives a byte back to the byte. -/
theorem permTable_scatterTable : ∀ k : Fin 32,
    scatterTable.getD k.val 0 < 32 ∧ permTable.toList.getD (scatterTable.getD k.val 0) 0 = k := by decide

/-- The scatter form of R125. -/
theorem permute_scatter (s : Block) (k : Fin 32) : (permute s).toList.getD (scatterTable.getD k.val 0) 0 = s[k] := by
  obtain ⟨h, hk⟩ := permTable_scatterTable k
  rw [permute_getD s h, hk, getD_toList s k k.isLt]
  rfl

/-- Settles O36: the table's entries, and the gather and the scatter they make. -/
theorem permutationTable : Obligations.PermutationTable := by
  unfold Obligations.PermutationTable
  exact ⟨by decide, permTable_bijective, by decide, fun s i => permute_getElem s i i.isLt, permute_scatter⟩

theorem permute_injective : Function.Injective permute := by
  intro s t h
  ext1 i hi
  have hbyte := permute_scatter s ⟨i, hi⟩
  rw [h, permute_scatter t] at hbyte
  exact hbyte.symm

/-! ## Injectivity of the cipher (93_implementation_defined.md U15) -/

/-- An injective function in each lane makes an injective function of the state. -/
theorem joinLanes_injective {f g : Lane → Lane} (hf : Function.Injective f) (hg : Function.Injective g) :
    Function.Injective fun s => joinLanes (f (laneA s)) (g (laneB s)) := by
  intro s t h
  have hA : laneA s = laneA t := hf (by simpa using congrArg laneA h)
  have hB : laneB s = laneB t := hg (by simpa using congrArg laneB h)
  rw [← joinLanes_lanes s, hA, hB, joinLanes_lanes]

/-- What the doubled construction needs of a collaborator: each of its round operations is injective. -/
structure RoundOpsInjective (A : Aes) : Prop where
  subBytes : Function.Injective A.subBytes
  shiftRows : Function.Injective A.shiftRows
  mixColumns : Function.Injective A.mixColumns
  addRoundKey : ∀ k, Function.Injective fun s => A.addRoundKey s k

theorem aesRound_injective {A : Aes} (h : RoundOpsInjective A) (k : Lane) : Function.Injective fun s => aesRound A s k :=
  (h.addRoundKey k).comp (h.mixColumns.comp (h.shiftRows.comp h.subBytes))

theorem aesLastRound_injective {A : Aes} (h : RoundOpsInjective A) (k : Lane) :
    Function.Injective fun s => aesLastRound A s k :=
  (h.addRoundKey k).comp (h.shiftRows.comp h.subBytes)

theorem whiten_injective {A : Aes} (h : RoundOpsInjective A) (key : Bytes 32) : Function.Injective (whiten A key) :=
  joinLanes_injective (f := fun a => A.addRoundKey a (roundKeyA A key 0)) (g := fun b => A.addRoundKey b (roundKeyB A key 0))
    (h.addRoundKey _) (h.addRoundKey _)

theorem middleRound_injective {A : Aes} (h : RoundOpsInjective A) (key : Bytes 32) (r : Nat) :
    Function.Injective (middleRound A key r) :=
  (joinLanes_injective (aesRound_injective h (roundKeyA A key r)) (aesRound_injective h (roundKeyB A key r))).comp
    permute_injective

theorem lastRound_injective {A : Aes} (h : RoundOpsInjective A) (key : Bytes 32) : Function.Injective (lastRound A key) :=
  (joinLanes_injective (aesLastRound_injective h (roundKeyA A key 14)) (aesLastRound_injective h (roundKeyB A key 14))).comp
    permute_injective

theorem afterRounds_injective {A : Aes} (h : RoundOpsInjective A) (key : Bytes 32) (n : Nat) :
    Function.Injective fun input => afterRounds A key input n := by
  induction n with
  | zero => exact whiten_injective h key
  | succ n ih => exact (middleRound_injective h key (n + 1)).comp ih

theorem encryptBlock_injective {A : Aes} (h : RoundOpsInjective A) (key : Bytes 32) :
    Function.Injective (encryptBlock A key) := by
  intro s t hst
  rw [encryptBlock, encryptBlock] at hst
  exact afterRounds_injective h key 13 (lastRound_injective h key hst)

/-- Settles O34: the cipher is a composition of the round operations, lane by lane, and of the permutation. -/
theorem cipherIsInjectiveOverAnyCollaborator : Obligations.CipherIsInjectiveOverAnyCollaborator := by
  unfold Obligations.CipherIsInjectiveOverAnyCollaborator
  exact fun A hsub hshift hmix hadd key => encryptBlock_injective ⟨hsub, hshift, hmix, hadd⟩ key

theorem fips197_roundOpsInjective : RoundOpsInjective fips197 :=
  ⟨subBytes_injective, shiftRows_injective, mixColumns_injective, xorBytes_injective⟩

/-- There are finitely many byte strings of a length. -/
theorem finite_bytes (n : Nat) : Finite (Bytes n) :=
  Finite.of_injective (fun (v : Bytes n) (i : Fin n) => v[i]) fun v w h => by
    ext1 i hi
    exact congrFun h ⟨i, hi⟩

/-- Settles O33: an injective function on the finitely many blocks is a bijection. -/
theorem cipherIsABijection : Obligations.CipherIsABijection := by
  unfold Obligations.CipherIsABijection
  have := finite_bytes 32
  exact fun key => Finite.injective_iff_bijective.1 (encryptBlock_injective fips197_roundOpsInjective key)

/-! ## The lanes put together: the operations on eight columns (R128) -/

theorem laneA_getD (s : Block) {i : Nat} (h : i < 16) : (laneA s).toList.getD i 0 = s.toList.getD i 0 := by
  rw [laneA, field_getD _ h, Nat.zero_add]

theorem laneB_getD (s : Block) {i : Nat} (h : i < 16) : (laneB s).toList.getD i 0 = s.toList.getD (16 + i) 0 :=
  field_getD _ h

theorem laneA_subBytes8 (s : Block) : laneA (subBytes8 s) = subBytes (laneA s) := by
  ext1 i h; simp [subBytes8]

theorem laneB_subBytes8 (s : Block) : laneB (subBytes8 s) = subBytes (laneB s) := by
  ext1 i h; simp [subBytes8]

theorem permute_subBytes8 (s : Block) : permute (subBytes8 s) = subBytes8 (permute s) := by
  ext1 i h; simp [subBytes8]

theorem joinLanes_xorBytes (a b k l : Lane) :
    joinLanes (xorBytes a k) (xorBytes b l) = xorBytes (joinLanes a b) (joinLanes k l) := by
  ext1 i h
  rw [xorBytes_getElem _ _ i h, joinLanes_getElem _ _ i h, joinLanes_getElem _ _ i h, joinLanes_getElem _ _ i h]
  split <;> rw [xorBytes_getElem]

/-- Where the row shift of a lane takes its byte from in the permuted state, `PERM` has the byte of the 8-column row shift. -/
theorem permTable_shiftRows : ∀ i : Fin 32,
    (permTable.toList.getD (16 * (i.val / 16) + (i.val % 4 + 4 * ((i.val % 16 / 4 + i.val % 4) % 4))) 0).val
      = i.val % 4 + 4 * ((i.val / 4 + rowOffset (i.val % 4)) % 8) := by decide

theorem shiftRows8_getElem (s : Block) (i : Nat) (h : i < 32) :
    (shiftRows8 s)[i] = s.toList.getD (i % 4 + 4 * ((i / 4 + rowOffset (i % 4)) % 8)) 0 := by
  rw [shiftRows8, Vector.getElem_ofFn]

theorem mixColumns8_getElem (s : Block) (i : Nat) (h : i < 32) :
    (mixColumns8 s)[i] = mixByte (i % 4) (s.toList.getD (4 * (i / 4)) 0) (s.toList.getD (4 * (i / 4) + 1) 0)
      (s.toList.getD (4 * (i / 4) + 2) 0) (s.toList.getD (4 * (i / 4) + 3) 0) := by
  rw [mixColumns8, Vector.getElem_ofFn]

theorem roundKey8_getElem (key : Bytes 32) (r i : Nat) (h : i < 32) :
    (roundKey8 key r)[i] = (keyWord key (8 * r + i / 4)).toList.getD (i % 4) 0 := by
  rw [roundKey8, Vector.getElem_ofFn]

/-- The row shift of R128 in each lane. -/
theorem joinLanes_shiftRows_permute (s : Block) :
    joinLanes (shiftRows (laneA (permute s))) (shiftRows (laneB (permute s))) = shiftRows8 s := by
  ext1 i h
  rw [joinLanes_getElem _ _ i h, shiftRows8_getElem s i h, ← permTable_shiftRows ⟨i, h⟩,
    ← permute_getD s (by dsimp only; omega)]
  split
  · next hi =>
    rw [shiftRows_getElem, laneA_getD _ (by omega)]
    congr 1; dsimp only; omega
  · next hi =>
    rw [shiftRows_getElem, laneB_getD _ (by omega)]
    congr 1; dsimp only; omega

theorem joinLanes_mixColumns (s : Block) : joinLanes (mixColumns (laneA s)) (mixColumns (laneB s)) = mixColumns8 s := by
  ext1 i h
  rw [joinLanes_getElem _ _ i h, mixColumns8_getElem s i h]
  split
  · next hi =>
    rw [mixColumns_getElem _ i hi]
    iterate 4 rw [laneA_getD s (by omega)]
  · next hi =>
    rw [mixColumns_getElem _ (i - 16) (by omega), show (i - 16) % 4 = i % 4 by omega, show i / 4 = 4 + (i - 16) / 4 by omega,
      Nat.mul_add]
    iterate 4 rw [laneB_getD s (by omega)]
    simp only [Nat.add_assoc, Nat.reduceMul]

theorem joinLanes_roundKeys (key : Bytes 32) (r : Nat) :
    joinLanes (roundKeyA fips197 key r) (roundKeyB fips197 key r) = roundKey8 key r := by
  ext1 i h
  rw [joinLanes_getElem _ _ i h, roundKey8_getElem key r i h]
  split
  · next hi => rw [roundKeyA_getElem]
  · next hi =>
    rw [roundKeyB_getElem key r _ (by omega), show 8 * r + 4 + (i - 16) / 4 = 8 * r + i / 4 by omega,
      show (i - 16) % 4 = i % 4 by omega]

/-! ## The rounds as rounds of Rijndael -/

theorem whiten_eq_rijndael (key : Bytes 32) (s : Block) : whiten fips197 key s = xorBytes s (roundKey8 key 0) := by
  rw [whiten, ← joinLanes_roundKeys, ← congrArg (xorBytes · _) (joinLanes_lanes s), ← joinLanes_xorBytes]
  rfl

/-- Substitution and row shift in each lane of the permuted state. -/
theorem joinLanes_shiftRows_subBytes (s : Block) :
    joinLanes (shiftRows (subBytes (laneA (permute s)))) (shiftRows (subBytes (laneB (permute s))))
      = shiftRows8 (subBytes8 s) := by
  rw [← laneA_subBytes8, ← laneB_subBytes8, ← permute_subBytes8, joinLanes_shiftRows_permute]

theorem middleRound_eq_rijndael (key : Bytes 32) (r : Nat) (s : Block) :
    middleRound fips197 key r s = xorBytes (mixColumns8 (shiftRows8 (subBytes8 s))) (roundKey8 key r) := by
  rw [← joinLanes_roundKeys, ← joinLanes_shiftRows_subBytes, ← joinLanes_mixColumns, laneA_joinLanes, laneB_joinLanes,
    ← joinLanes_xorBytes]
  rfl

theorem lastRound_eq_rijndael (key : Bytes 32) (s : Block) :
    lastRound fips197 key s = xorBytes (shiftRows8 (subBytes8 s)) (roundKey8 key 14) := by
  rw [← joinLanes_roundKeys, ← joinLanes_shiftRows_subBytes, ← joinLanes_xorBytes]
  rfl

theorem afterRounds_eq_rijndael (key input : Bytes 32) (n : Nat) (hn : n ≤ 13) :
    afterRounds fips197 key input n = rijndaelAfter key input n := by
  induction n with
  | zero => exact whiten_eq_rijndael key input
  | succ n ih => rw [afterRounds, middleRound_eq_rijndael, ih (by omega), rijndaelAfter, if_neg (by omega)]

theorem rijndael256_eq (key input : Bytes 32) :
    rijndael256 key input = xorBytes (shiftRows8 (subBytes8 (rijndaelAfter key input 13))) (roundKey8 key 14) := rfl

/-- Settles O35: the row shift of the permuted lanes, and so round by round the same state. -/
theorem cipherIsRijndael256 : Obligations.CipherIsRijndael256 := by
  unfold Obligations.CipherIsRijndael256
  refine ⟨joinLanes_shiftRows_permute, fun key input => ?_⟩
  rw [encryptBlock, lastRound_eq_rijndael, afterRounds_eq_rijndael key input 13 le_rfl, rijndael256_eq]

end Sys2Proof.Machine
end

section
/-! SUPPORT. Separation (43_suite.md R179): the core transform is injective in the input-mixing block, and the block shows the function's
index and the used bytes of `SQN`. -/

namespace Sys2Proof.Machine

/-- Under one key and nonce the core transforms are equal only for equal blocks. -/
theorem inBlock_eq_of_coreTransform_eq {s : State} {idx idx' : Fin 8} {metadata metadata' : Nat} {o o' : SuiteOperands}
    (hkey : o.key = o'.key) (hrand : o.rand = o'.rand)
    (h : coreTransform fips197 s idx metadata o = coreTransform fips197 s idx' metadata' o') :
    inBlock s idx metadata o = inBlock s idx' metadata' o' := by
  simp only [coreTransform, tempBlock, hkey, hrand, xorBytes_comm _ (inBlock _ _ _ _)] at h
  exact xorBytes_injective _ (encryptBlock_injective fips197_roundOpsInjective _ (xorBytes_injective _ h))

theorem inBlock_getElem_zero (s : State) (idx : Fin 8) (metadata : Nat) (o : SuiteOperands) :
    (inBlock s idx metadata o)[0] = BitVec.ofNat 8 (byte0 s idx.val) := by
  simpa [byte0] using inputMixingBlockBytes s idx metadata o 0

/-- With legal widths byte 0 gives the index back. -/
theorem idx_eq_of_inBlock_eq {s : State} {idx idx' : Fin 8} {metadata metadata' : Nat} {o o' : SuiteOperands} (hc : CfgOk s)
    (h : inBlock s idx metadata o = inBlock s idx' metadata' o') : idx = idx' := by
  have hbyte := congrArg (fun b : Block => b[0].toNat) h
  simp only [inBlock_getElem_zero, BitVec.toNat_ofNat] at hbyte
  have hlow := byte0_low_lt hc
  rw [byte0_eq_add hc, byte0_eq_add hc] at hbyte
  ext
  omega

/-- Without `MACS`, a used byte `k` of `SQN` is byte `4 + k` of the block. -/
theorem inBlock_getElem_sqn {s : State} (hc : CfgOk s) (idx : Fin 8) (metadata : Nat) {o : SuiteOperands} (hmacs : o.macs = none)
    {sqn : Bytes 12} (hsqn : o.sqn = some sqn) {k : Nat} (hk : k < s.sqnW.toNat) :
    (inBlock s idx metadata o).toList.getD (4 + k) 0 = sqn.toList.getD k 0 := by
  obtain ⟨_, _, _, _, _, _, ⟨_, hwidth⟩, _⟩ := hc
  have hi : 4 + k < 32 := by omega
  rw [getD_toList _ _ hi]
  refine (inputMixingBlockBytes s idx metadata o ⟨4 + k, hi⟩).trans ?_
  rw [if_neg (by simp), if_neg (by simp; omega), if_neg (by simp), if_pos (by simp [hk]), hmacs, hsqn]
  simp [optBytes, show ¬ 16 ≤ 4 + k by omega]

/-- Settles O58: equal results have equal blocks, and in equal blocks the index and the used bytes of `SQN` are equal. -/
theorem differentInputBlocksGiveDifferentResults : Obligations.DifferentInputBlocksGiveDifferentResults := by
  unfold Obligations.DifferentInputBlocksGiveDifferentResults
  intro s idx idx' metadata metadata' o o' hkey hrand
  refine ⟨fun hne h => hne (inBlock_eq_of_coreTransform_eq hkey hrand h),
    fun hc hne h => hne (idx_eq_of_inBlock_eq hc (inBlock_eq_of_coreTransform_eq hkey hrand h)), ?_⟩
  rintro hc - - - hmacs hmacs' ⟨k, sqn, sqn', hk, hsqn, hsqn', hne⟩ h
  have hblock := inBlock_eq_of_coreTransform_eq hkey hrand h
  rw [← inBlock_getElem_sqn hc idx metadata hmacs hsqn hk, hblock, inBlock_getElem_sqn hc idx' metadata' hmacs' hsqn' hk] at hne
  exact hne rfl

end Sys2Proof.Machine
end
